-- ==== Sys2Proof/Word.lean ====
section
/-! DEFINITION. The fixed-width values of the codec core (spec/00_scope.md R6, R7, R9, R11): every value of the block is an
unsigned bit vector of a stated width, bit 0 the least significant. -/

namespace Sys2Proof

/-- A byte: bits 7 to 0 (R7). -/
abbrev Byte := BitVec 8

/-- A 16-bit quantity: the `dac_code` operand port (`DAC_IN_W`, R6) and every big-endian pair of bytes (R8). -/
abbrev Word16 := BitVec 16

/-- A DAC code as a frame or a status view holds it: `CODE_W` = 12 bits (R6). -/
abbrev Code := BitVec 12

/-- A power-down mode on a port or in a frame: `PD_W` = 2 bits (R6, R67). -/
abbrev ModeBits := BitVec 2

/-- One Boolean port: 1 is true, 0 is false (R11). -/
abbrev Bit := BitVec 1

/-- A 7-bit bus device address (`DEV_ADDR_W`, R6), held by the orchestrator only (R39). -/
abbrev Addr7 := BitVec 7

end Sys2Proof
end

