-- ==== Sys2Proof/Config.lean ====
section
/-! DEFINITION. The implementation parameters of spec/00_scope.md R6 and the wired constants of R14. The spec leaves no result
of an operation open, so there is no free value here; its two open parameters, the transport's error type (D16) and the device
address (D17), are a type of tokens here and an argument of construction (Machine/Orchestrator.lean). -/

namespace Sys2Proof.Config

/-- `CODE_W` (R6). -/
def codeWidth : Nat := 12
/-- `DAC_IN_W` (R6). -/
def dacInWidth : Nat := 16
/-- `PD_W` (R6). -/
def pdWidth : Nat := 2
/-- `PD_COUNT` (R6). -/
def pdCount : Nat := 4
/-- `FAST_LEN` (R6). -/
def fastLen : Nat := 2
/-- `WRITE_LEN` (R6). -/
def writeLen : Nat := 3
/-- `REPLY_LEN` (R6). -/
def replyLen : Nat := 5
/-- `FRAME_REPEAT` (R6, R57): a frame's content is sent once; the doubled variant is refused. -/
def frameRepeat : Nat := 1
/-- `DEV_ADDR_W` (R6). -/
def devAddrWidth : Nat := 7

/-- `SV_PAD`, the third output byte of `set_voltage` when its frame has 2 bytes (R6, R70). -/
abbrev svPad : Byte := 0x00#8

/-- The mask of a DAC code, `0x0FFF` (R14, R71). -/
abbrev codeMask : Word16 := 0x0FFF#16

/-- The fast-write selector, bits 15-14 of the FW word (R45, R54). -/
abbrev selFast : BitVec 2 := 0b00#2
/-- The register-only full-write selector, byte 0 bits 7-5 (R46, R54). -/
abbrev selReg : BitVec 3 := 0b010#3
/-- The write-and-persist selector, byte 0 bits 7-5 (R46, R54). -/
abbrev selPersist : BitVec 3 := 0b011#3

/-- `TransportError` (R6, R101; OPEN parameter D16): the transport's error value, opaque to the block and to the orchestrator.
DESIGN CHOICE (notes/assumptions/7.md): a token; nothing in the model looks at the number. -/
structure TransportError where
  token : Nat
  deriving DecidableEq, Repr

/-- The transport handle the orchestrator holds (R91), a token (notes/assumptions/8.md): nothing in the model looks at it. -/
structure BusHandle where
  token : Nat
  deriving DecidableEq, Repr

end Sys2Proof.Config
end

