-- ==== Sys2Proof/Machine/Flags.lean ====
section
/-! DEFINITION. Flags and Booleans. The block stores no flag and no operation has a flag side effect (R19); the two flags are
bits of the device's status byte that `decode_register` reads out (R79), and a Boolean is one bit, 1 true (R11). -/

namespace Sys2Proof.Machine

/-- A Boolean on a one-bit port: 1 is true (R11, D8). -/
def bitOfBool (b : Bool) : Bit := if b then 1#1 else 0#1

/-- A one-bit port read as a Boolean: 1 is true (R11, D8). -/
def boolOfBit (b : Bit) : Bool := b == 1#1

/-- The EEPROM-ready flag: bit 7 of the status byte (R20, R79). -/
def readyFlag (b0 : Byte) : Bit := b0.extractLsb' 7 1

/-- The power-on-reset flag: bit 6 of the status byte (R20, R79). -/
def porFlag (b0 : Byte) : Bit := b0.extractLsb' 6 1

end Sys2Proof.Machine
end

