-- ==== Sys2Proof/Syntax.lean ====
section
/-! DEFINITION. The operations of the block as syntax: one constructor of `Instr` per row of spec/opcode_table.json (R3, R54,
R61), the rows' names, and the five host-level operations of spec/43_host_operations.md. -/

namespace Sys2Proof

/-- The closed enumeration of exactly four power-down modes (R21, R63). -/
inductive PowerDownMode where
  | normal
  | oneK
  | oneHundredK
  | fiveHundredK
  deriving DecidableEq, Repr

/-- An instruction is one operation of the block on its operands (R3, D9): one constructor per row of spec/opcode_table.json.
`dacCode` is the 16-bit operand port (R16); bits 15-12 of it are legal and discarded (R71). -/
inductive Instr where
  /-- FAST_WRITE: `fast_write(power_down_mode, dac_code)` (R68). -/
  | fastWrite (mode : PowerDownMode) (dacCode : Word16)
  /-- WRITE_REG: `write(power_down_mode, dac_code, false)` (R69). -/
  | writeReg (mode : PowerDownMode) (dacCode : Word16)
  /-- WRITE_EEPROM: `write(power_down_mode, dac_code, true)` (R69). -/
  | writeEeprom (mode : PowerDownMode) (dacCode : Word16)
  /-- SET_VOLTAGE_FAST: `set_voltage(dac_code, false)` (R70). -/
  | setVoltageFast (dacCode : Word16)
  /-- SET_VOLTAGE_PERSIST: `set_voltage(dac_code, true)` (R70). -/
  | setVoltagePersist (dacCode : Word16)
  /-- READ_REPLY: `decode_reply([b0, b1, b2, b3, b4])` (R81). -/
  | readReply (b0 b1 b2 b3 b4 : Byte)
  /-- REG_STATUS: `decode_register(b0, b1, b2)` (R79). -/
  | regStatus (b0 b1 b2 : Byte)
  /-- EEPROM_STATUS: `decode_eeprom(b3, b4)` (R80). -/
  | eepromStatus (b3 b4 : Byte)
  /-- PD_NORMAL: the variant Normal and its code `00` (R63). -/
  | pdNormal
  /-- PD_ONEK: the variant OneK and its code `01` (R63). -/
  | pdOneK
  /-- PD_ONEHUNDREDK: the variant OneHundredK and its code `10` (R63). -/
  | pdOneHundredK
  /-- PD_FIVEHUNDREDK: the variant FiveHundredK and its code `11` (R63). -/
  | pdFiveHundredK
  /-- PD_ENCODE: `pd_encode(mode)` (R64). -/
  | pdEncode (mode : PowerDownMode)
  /-- PD_DECODE: `pd_decode(bits)` (R65). -/
  | pdDecode (bits : ModeBits)
  deriving DecidableEq, Repr

/-- The rows of spec/opcode_table.json by name: which operation the host selects (R42, D2: the block has no operation-select
code, so this is a name and never a bit pattern). -/
inductive Row where
  | fastWrite
  | writeReg
  | writeEeprom
  | setVoltageFast
  | setVoltagePersist
  | readReply
  | regStatus
  | eepromStatus
  | pdNormal
  | pdOneK
  | pdOneHundredK
  | pdFiveHundredK
  | pdEncode
  | pdDecode
  deriving DecidableEq, Repr

/-- The opcode-table row of an instruction. -/
def Instr.row : Instr → Row
  | .fastWrite _ _ => .fastWrite
  | .writeReg _ _ => .writeReg
  | .writeEeprom _ _ => .writeEeprom
  | .setVoltageFast _ => .setVoltageFast
  | .setVoltagePersist _ => .setVoltagePersist
  | .readReply _ _ _ _ _ => .readReply
  | .regStatus _ _ _ => .regStatus
  | .eepromStatus _ _ => .eepromStatus
  | .pdNormal => .pdNormal
  | .pdOneK => .pdOneK
  | .pdOneHundredK => .pdOneHundredK
  | .pdFiveHundredK => .pdFiveHundredK
  | .pdEncode _ => .pdEncode
  | .pdDecode _ => .pdDecode

/-- The host-level operations of the driver orchestrator (R92 to R96; outside CORE, R5). They are not rows of the opcode table:
each runs one operation of the block and one bus transaction. -/
inductive HostOp where
  /-- `read()` (R92). -/
  | read
  /-- `fast_write(power_down_mode, dac_code)` (R93). -/
  | fastWrite (mode : PowerDownMode) (dacCode : Word16)
  /-- `write(power_down_mode, dac_code, persist_to_eeprom)` (R94). -/
  | write (mode : PowerDownMode) (dacCode : Word16) (persist : Bool)
  /-- `set_voltage(dac_code, persist_to_eeprom)` (R95). -/
  | setVoltage (dacCode : Word16) (persist : Bool)
  /-- `destroy()` (R96). -/
  | destroy
  deriving DecidableEq, Repr

end Sys2Proof
end

