-- ==== Sys2Proof/Machine/Operands.lean ====
section
/-! DEFINITION. Operand assembly (spec/30_encoding.md section 2, spec/40_pd_codec.md): the PowerDownMode codec, the mask of a
DAC code, and where each frame puts the mode and the code. R53: no position is shared between two frames, so every extraction
has a definition of its own. -/

namespace Sys2Proof.Machine

/-- `pd_encode` by its explicit four-row table (R63, R64). -/
def pdEncode : PowerDownMode → ModeBits
  | .normal => 0b00#2
  | .oneK => 0b01#2
  | .oneHundredK => 0b10#2
  | .fiveHundredK => 0b11#2

/-- `pd_decode` by its explicit four-row table, total on two bits with no default row (R63, R65). -/
def pdDecode (bits : ModeBits) : PowerDownMode :=
  match (bits.toFin : Fin 4) with
  | 0b00 => .normal
  | 0b01 => .oneK
  | 0b10 => .oneHundredK
  | 0b11 => .fiveHundredK

/-- The numeric value of a variant (R63). -/
def pdNumber : PowerDownMode → Nat
  | .normal => 0
  | .oneK => 1
  | .oneHundredK => 2
  | .fiveHundredK => 3

/-- A big-endian 16-bit word: the lower-numbered byte holds bits 15 to 8 (R8, R31). -/
def be16 (hi lo : Byte) : Word16 := hi ++ lo

/-- Bits 15-8 of a word: its lower-numbered byte (R8). -/
def hiByte (v : Word16) : Byte := v.extractLsb' 8 8

/-- Bits 7-0 of a word: its higher-numbered byte (R8). -/
def loByte (v : Word16) : Byte := v.extractLsb' 0 8

/-- `c = dac_code & 0x0FFF`, the 12 significant bits of the 16-bit operand (R49, R50, R71). -/
def maskCode (d : Word16) : Code := (d &&& Config.codeMask).setWidth 12

/-- The FW word: selector `00`, mode, code unshifted (R45, R49, R68). -/
def fwWord (p : ModeBits) (c : Code) : Word16 := Config.selFast ++ p ++ c

/-- The WR selector: a Boolean branch on `persist_to_eeprom` (R54, R69). -/
def wrSelector (persist : Bool) : BitVec 3 := if persist then Config.selPersist else Config.selReg

/-- Byte 0 of WR: selector, two zero bits, mode, one zero bit (R46, R69). -/
def wrByte0 (sel : BitVec 3) (p : ModeBits) : Byte := sel ++ 0b00#2 ++ p ++ 0b0#1

/-- The 16-bit value of WR bytes 1-2: the code shifted left by 4, four zero bits below it (R46, R50, R69). -/
def wrValue (c : Code) : Word16 := c ++ 0b0000#4

/-- The register view's mode: bits 2-1 of reply byte 0 (R47, R79). -/
def registerModeField (b0 : Byte) : ModeBits := b0.extractLsb' 1 2

/-- The register view's code: `(RX[1] ++ RX[2]) >> 4`, one of the two separately named extractions (R51, R83). -/
def registerCode (b1 b2 : Byte) : Code := (be16 b1 b2 >>> 4).setWidth 12

/-- The EEPROM view's mode: bits 6-5 of reply byte 3 (R47, R80). -/
def eepromModeField (b3 : Byte) : ModeBits := b3.extractLsb' 5 2

/-- The EEPROM view's code: `(RX[3] ++ RX[4]) & 0x0FFF`, no shift (R52, R83). -/
def eepromCode (b3 b4 : Byte) : Code := (be16 b3 b4 &&& Config.codeMask).setWidth 12

end Sys2Proof.Machine
end

