-- ==== Sys2Proof/WellFormed.lean ====
section
/-! DEFINITION. Well-formed instructions: those that the table's word for them determines. The block runs EVERY instruction
(R72, R82); the check only says which `dac_code` operands a frame can carry whole (R71: a frame has 12 of the 16 bits). -/

namespace Sys2Proof

/-- The operand's bits 15-12, which no frame carries, are zero (R71). -/
def codeFits (d : Word16) : Bool := d.toNat < 2 ^ Config.codeWidth

/-- An instruction is well formed when its word determines it: a `dac_code` operand has no bit above bit 11. An instruction
that is not well formed still runs, with those bits masked off (R71). -/
def Instr.wf : Instr → Bool
  | .fastWrite _ d => codeFits d
  | .writeReg _ d => codeFits d
  | .writeEeprom _ d => codeFits d
  | .setVoltageFast d => codeFits d
  | .setVoltagePersist d => codeFits d
  | .readReply _ _ _ _ _ => true
  | .regStatus _ _ _ => true
  | .eepromStatus _ _ => true
  | .pdNormal => true
  | .pdOneK => true
  | .pdOneHundredK => true
  | .pdFiveHundredK => true
  | .pdEncode _ => true
  | .pdDecode _ => true

end Sys2Proof
end

