-- ==== Sys2Proof/Decode.lean ====
section
/-! DEFINITION. From bytes to an instruction and back (spec/30_encoding.md, spec/opcode_table.json). The block itself fetches
nothing and holds no command-frame decoder (R15, R58): the host names the operation. So the decoder proper, `decodeRow`, is told
which row of the table it reads; `decodeImage` is for bytes that come with no row and takes the first row of `opcodeTable`
that admits them. Every rejection has a name. -/

namespace Sys2Proof

open Machine (pdEncode pdDecode)

/-- Why bytes are not an image of a row. -/
inductive DecodeError where
  /-- Byte 0 bits 7-6 are `10` or `11`: a selector the spec gives no meaning to; a classifier must refuse it (R58, U4). -/
  | unassignedSelector
  /-- Byte 0 carries another command's selector than the row's (R54, R59). -/
  | otherSelector
  /-- A constant-zero bit of a full-write frame is 1: no operation emits such a frame (R55, R58). -/
  | constantZeroBit
  /-- A `set_voltage` frame with a mode other than Normal: the operation never emits one (R62, R70). -/
  | modeNotNormal
  /-- 4 or 6 bytes: the doubled-frame variant, refused (R57, U1). -/
  | doubledFrame
  /-- A command frame or a part of a reply of a length its format does not have (R44, R59, R74). -/
  | length (n : Nat)
  /-- A reply of a length other than 5 (R34, U10). -/
  | replyLength (n : Nat)
  /-- A power-down-mode code has 2 bits; the byte that carries it has a higher bit set (R48, R65). -/
  | wideModeField
  /-- The two bits are another variant's code than the row's (R48, R63). -/
  | otherMode
  deriving DecidableEq, Repr

/-- What a decoder answers: the instruction, or the name of what is wrong with the bytes. -/
inductive Decoded where
  | ok (i : Instr)
  | reject (e : DecodeError)
  deriving DecidableEq, Repr

/-- The instruction of an answer, if there is one. -/
def Decoded.instr? : Decoded → Option Instr
  | .ok i => some i
  | .reject _ => none

/-- The rejection for a command row's bytes of the wrong number: the doubled lengths 4 and 6 have a name of their own (R57). -/
def commandLengthError (n : Nat) : DecodeError :=
  if n = 4 ∨ n = 6 then .doubledFrame else .length n

/-- A 12-bit code out of a frame as the 16-bit operand that has it and zero bits above. -/
def operandOfCode (c : Code) : Word16 := c.setWidth 16

/-- What a command row finds in byte 0 when the selector is not its own (R54, R58). -/
def selectorError (b0 : Byte) : DecodeError :=
  if b0.getLsbD 7 then .unassignedSelector else .otherSelector

/-- The mode field of FW: byte 0 bits 5-4 (R45, R53). -/
def fwModeField (b0 : Byte) : ModeBits := b0.extractLsb' 4 2

/-- The code field of FW: byte 0 bits 3-0, then byte 1 (R45). -/
def fwCodeField (b0 b1 : Byte) : Code := b0.extractLsb' 0 4 ++ b1

/-- The mode field of WR: byte 0 bits 2-1 (R46, R53). -/
def wrModeField (b0 : Byte) : ModeBits := b0.extractLsb' 1 2

/-- The code field of WR: byte 1, then byte 2 bits 7-4 (R46). -/
def wrCodeField (b1 b2 : Byte) : Code := b1 ++ b2.extractLsb' 4 4

/-- Format FW (R45): the selector is `00`; the mode and the code are handed on. -/
def decodeFW (b0 b1 : Byte) (k : ModeBits → Code → Decoded) : Decoded :=
  if b0.extractLsb' 6 2 = Config.selFast then k (fwModeField b0) (fwCodeField b0 b1)
  else .reject (selectorError b0)

/-- Format WR (R46) with the selector `sel`: the constant-zero bits are 0; the mode and the code are handed on. -/
def decodeWR (sel : BitVec 3) (b0 b1 b2 : Byte) (k : ModeBits → Code → Decoded) : Decoded :=
  if b0.extractLsb' 5 3 = sel then
    if b0.extractLsb' 3 2 = 0#2 ∧ b0.extractLsb' 0 1 = 0#1 ∧ b2.extractLsb' 0 4 = 0#4 then
      k (wrModeField b0) (wrCodeField b1 b2)
    else .reject .constantZeroBit
  else .reject (selectorError b0)

/-- Accept the mode Normal only (R62). -/
def ifNormal (p : ModeBits) (i : Instr) : Decoded :=
  if p = 0b00#2 then .ok i else .reject .modeNotNormal

/-- Format PD in a byte (R48): the two bits, the byte's other bits zero. -/
def decodePD (b : Byte) (k : ModeBits → Decoded) : Decoded :=
  if b.extractLsb' 2 6 = 0#6 then k (b.extractLsb' 0 2) else .reject .wideModeField

/-- Accept one variant's code only (R63). -/
def ifMode (p want : ModeBits) (i : Instr) : Decoded :=
  if p = want then .ok i else .reject .otherMode

/-- The decoder: the instruction of a row that the bytes are an image of, or the name of what is wrong with them. Byte 0
first (R8). -/
def decodeRow : Row → List Byte → Decoded
  | .fastWrite, [b0, b1] => decodeFW b0 b1 fun p c => .ok (.fastWrite (pdDecode p) (operandOfCode c))
  | .fastWrite, bs => .reject (commandLengthError bs.length)
  | .setVoltageFast, [b0, b1] => decodeFW b0 b1 fun p c => ifNormal p (.setVoltageFast (operandOfCode c))
  | .setVoltageFast, bs => .reject (commandLengthError bs.length)
  | .writeReg, [b0, b1, b2] =>
    decodeWR Config.selReg b0 b1 b2 fun p c => .ok (.writeReg (pdDecode p) (operandOfCode c))
  | .writeReg, bs => .reject (commandLengthError bs.length)
  | .writeEeprom, [b0, b1, b2] =>
    decodeWR Config.selPersist b0 b1 b2 fun p c => .ok (.writeEeprom (pdDecode p) (operandOfCode c))
  | .writeEeprom, bs => .reject (commandLengthError bs.length)
  | .setVoltagePersist, [b0, b1, b2] =>
    decodeWR Config.selPersist b0 b1 b2 fun p c => ifNormal p (.setVoltagePersist (operandOfCode c))
  | .setVoltagePersist, bs => .reject (commandLengthError bs.length)
  | .readReply, [b0, b1, b2, b3, b4] => .ok (.readReply b0 b1 b2 b3 b4)
  | .readReply, bs => .reject (.replyLength bs.length)
  | .regStatus, [b0, b1, b2] => .ok (.regStatus b0 b1 b2)
  | .regStatus, bs => .reject (.length bs.length)
  | .eepromStatus, [b3, b4] => .ok (.eepromStatus b3 b4)
  | .eepromStatus, bs => .reject (.length bs.length)
  | .pdNormal, [b] => decodePD b fun p => ifMode p 0b00#2 .pdNormal
  | .pdNormal, bs => .reject (.length bs.length)
  | .pdOneK, [b] => decodePD b fun p => ifMode p 0b01#2 .pdOneK
  | .pdOneK, bs => .reject (.length bs.length)
  | .pdOneHundredK, [b] => decodePD b fun p => ifMode p 0b10#2 .pdOneHundredK
  | .pdOneHundredK, bs => .reject (.length bs.length)
  | .pdFiveHundredK, [b] => decodePD b fun p => ifMode p 0b11#2 .pdFiveHundredK
  | .pdFiveHundredK, bs => .reject (.length bs.length)
  | .pdEncode, [b] => decodePD b fun p => .ok (.pdEncode (pdDecode p))
  | .pdEncode, bs => .reject (.length bs.length)
  | .pdDecode, [b] => decodePD b fun p => .ok (.pdDecode p)
  | .pdDecode, bs => .reject (.length bs.length)

/-! ### The opcode table -/

/-- One row of spec/opcode_table.json: its width in bits, and its mask and match over that width. -/
structure TableRow where
  row : Row
  width : Nat
  mask : Nat
  matched : Nat
  deriving DecidableEq, Repr

/-- spec/opcode_table.json's widths, masks and matches, the rows with the larger masks of a width first (so `decodeImage` takes
`set_voltage` before the operation it expands to, R62, and a command before a reply, which admits every word). -/
def opcodeTable : List TableRow :=
  [⟨.setVoltageFast, 16, 0xF000, 0x0000⟩,
   ⟨.fastWrite, 16, 0xC000, 0x0000⟩,
   ⟨.eepromStatus, 16, 0x0000, 0x0000⟩,
   ⟨.setVoltagePersist, 24, 0xFF000F, 0x600000⟩,
   ⟨.writeReg, 24, 0xF9000F, 0x400000⟩,
   ⟨.writeEeprom, 24, 0xF9000F, 0x600000⟩,
   ⟨.regStatus, 24, 0x000000, 0x000000⟩,
   ⟨.readReply, 40, 0x0000000000, 0x0000000000⟩] ++
  [⟨.pdNormal, 2, 0x3, 0x0⟩,
   ⟨.pdOneK, 2, 0x3, 0x1⟩,
   ⟨.pdOneHundredK, 2, 0x3, 0x2⟩,
   ⟨.pdFiveHundredK, 2, 0x3, 0x3⟩,
   ⟨.pdEncode, 2, 0x0, 0x0⟩,
   ⟨.pdDecode, 2, 0x0, 0x0⟩]

/-- The bytes of a table word of `n` bytes: the table numbers a frame's bits from the last byte's bit 0, so byte 0 holds the
highest bits ("big-endian: byte0 = bits 15:8, byte1 = bits 7:0", opcode_table.json; R8). -/
def bytesOfWord : Nat → Nat → List Byte
  | 0, _ => []
  | n + 1, w => BitVec.ofNat 8 (w >>> (8 * n)) :: bytesOfWord n w

/-- The number a frame's bytes spell, byte 0 highest (R8). -/
def wordOfBytes (bs : List Byte) : Nat := bs.foldl (fun w b => w * 256 + b.toNat) 0

/-- The bytes a row's word fills. -/
def TableRow.byteCount (r : TableRow) : Nat := (r.width + 7) / 8

/-- A row admits bytes: they are of its length, and the word they spell has no bit above the row's width and has the row's match
under its mask. -/
def TableRow.admits (r : TableRow) (bs : List Byte) : Bool :=
  bs.length == r.byteCount && wordOfBytes bs < 2 ^ r.width && wordOfBytes bs &&& r.mask == r.matched

/-- The rejection of bytes no row admits: the doubled lengths, a mode byte with a high bit, any other length. -/
def imageError (bs : List Byte) : DecodeError :=
  if bs.length = 1 then .wideModeField else commandLengthError bs.length

/-- The decoder of bytes that come with no row: the first row of `opcodeTable` that admits them reads them.
DESIGN CHOICE (notes/assumptions/4.md): the table's rows overlap, and the spec has no classifier. -/
def decodeImage (bs : List Byte) : Decoded :=
  match opcodeTable.find? (·.admits bs) with
  | some r => decodeRow r.row bs
  | none => .reject (imageError bs)

/-- The instruction the decoder reads from a table word of `nbits` bits. -/
def decodeTableWord (nbits w : Nat) : Option Instr :=
  (decodeImage (bytesOfWord ((nbits + 7) / 8) w)).instr?

/-! ### The encoder -/

/-- The bytes of an FW word put together field by field: the mode at bits 13-12, the code at bits 11-0 (R45). -/
def encodeFW (p : ModeBits) (c : Code) : List Byte :=
  let w : Word16 := (p.setWidth 16 <<< 12) ||| c.setWidth 16
  [w.extractLsb' 8 8, w.extractLsb' 0 8]

/-- The bytes of a WR frame put together field by field: the selector at frame bits 23-21, the mode at 18-17, the code at 15-4
(R46). -/
def encodeWR (sel : BitVec 3) (p : ModeBits) (c : Code) : List Byte :=
  let w : BitVec 24 := (sel.setWidth 24 <<< 21) ||| (p.setWidth 24 <<< 17) ||| (c.setWidth 24 <<< 4)
  [w.extractLsb' 16 8, w.extractLsb' 8 8, w.extractLsb' 0 8]

/-- A power-down-mode code in the low two bits of a byte (R48). -/
def encodePD (p : ModeBits) : List Byte := [p.setWidth 8]

/-- The encoder: the bytes of an instruction's word in its row of the table, byte 0 first. -/
def encode : Instr → List Byte
  | .fastWrite m d => encodeFW (pdEncode m) (d.setWidth 12)
  | .writeReg m d => encodeWR Config.selReg (pdEncode m) (d.setWidth 12)
  | .writeEeprom m d => encodeWR Config.selPersist (pdEncode m) (d.setWidth 12)
  | .setVoltageFast d => encodeFW 0b00#2 (d.setWidth 12)
  | .setVoltagePersist d => encodeWR Config.selPersist 0b00#2 (d.setWidth 12)
  | .readReply b0 b1 b2 b3 b4 => [b0, b1, b2, b3, b4]
  | .regStatus b0 b1 b2 => [b0, b1, b2]
  | .eepromStatus b3 b4 => [b3, b4]
  | .pdNormal => encodePD 0b00#2
  | .pdOneK => encodePD 0b01#2
  | .pdOneHundredK => encodePD 0b10#2
  | .pdFiveHundredK => encodePD 0b11#2
  | .pdEncode m => encodePD (pdEncode m)
  | .pdDecode b => encodePD b

end Sys2Proof
end

