-- ==== Sys2Proof/Machine/State.lean ====
section
/-! DEFINITION. The machine's state as plain data. The block itself holds NO state (R13): it is the function
`Machine.blockOutputs` of its input ports (Machine/Units.lean). State therefore holds the levels on its input ports, what the host
took from its output ports, the orchestrator around it (R26, R91), and what comes from outside: the host's requests and the
transport's answers (R24, R38). INVENTORY.md lists every field. -/

namespace Sys2Proof.Machine

open Config (TransportError BusHandle)

/-- A byte space (R28, R10): (index, byte) pairs, indexes strictly rising. An index that is not listed holds NO byte: a frame has
exactly its 2 or 3 bytes (R29), so no entry can equal what an unlisted index reads as. -/
abbrev Memory := List Host.Cell

/-- The canonical form: indexes strictly rising (so none twice). -/
def Memory.wf : Memory → Bool
  | [] => true
  | [_] => true
  | (a, _) :: (b, v) :: rest => a < b && Memory.wf ((b, v) :: rest)

/-- The block's input ports (R16, R17, R18), each a level the host drives. DESIGN CHOICE (notes/assumptions/22.md): separate wires,
none shared between groups. -/
structure Inputs where
  /-- `fw_mode` -/
  fwMode : ModeBits
  /-- `fw_code` -/
  fwCode : Word16
  /-- `wr_mode` -/
  wrMode : ModeBits
  /-- `wr_code` -/
  wrCode : Word16
  /-- `wr_persist` -/
  wrPersist : Bit
  /-- `sv_code` -/
  svCode : Word16
  /-- `sv_persist` -/
  svPersist : Bit
  /-- `rx_b0` -/
  rxB0 : Byte
  /-- `rx_b1` -/
  rxB1 : Byte
  /-- `rx_b2` -/
  rxB2 : Byte
  /-- `rx_b3` -/
  rxB3 : Byte
  /-- `rx_b4` -/
  rxB4 : Byte
  /-- `pde_mode` (an enumeration, R18) -/
  pdeMode : PowerDownMode
  /-- `pdd_bits` -/
  pddBits : ModeBits
  deriving DecidableEq, Repr

/-- The block's output ports (R16, R17, R18). They are never stored: they are `Machine.blockOutputs` of the input ports (R27). -/
structure Outputs where
  /-- `fw_b0` -/
  fwB0 : Byte
  /-- `fw_b1` -/
  fwB1 : Byte
  /-- `wr_b0` -/
  wrB0 : Byte
  /-- `wr_b1` -/
  wrB1 : Byte
  /-- `wr_b2` -/
  wrB2 : Byte
  /-- `sv_len` -/
  svLen : BitVec 2
  /-- `sv_b0` -/
  svB0 : Byte
  /-- `sv_b1` -/
  svB1 : Byte
  /-- `sv_b2`, not part of the frame when `sv_len` is 2 -/
  svB2 : Byte
  /-- `reg_raw` -/
  regRaw : Byte
  /-- `reg_ready` -/
  regReady : Bit
  /-- `reg_por` -/
  regPor : Bit
  /-- `reg_mode` -/
  regMode : ModeBits
  /-- `reg_code` -/
  regCode : Code
  /-- `ee_mode` -/
  eeMode : ModeBits
  /-- `ee_code` -/
  eeCode : Code
  /-- `pde_bits` -/
  pdeBits : ModeBits
  /-- `pdd_mode` -/
  pddMode : PowerDownMode
  deriving DecidableEq, Repr

/-- RegisterStatus, the parsed view of reply bytes 0 to 2 (R22; the mode is there by 90_conflicts.md C1). -/
structure RegisterStatus where
  raw : Byte
  ready : Bool
  por : Bool
  mode : PowerDownMode
  code : Code
  deriving DecidableEq, Repr

/-- EEPROMStatus, the parsed view of reply bytes 3 and 4 (R23). -/
structure EepromStatus where
  mode : PowerDownMode
  code : Code
  deriving DecidableEq, Repr

/-- The orchestrator's whole state: an exclusive transport handle and one 7-bit address (R26, R91). -/
structure Driver where
  bus : BusHandle
  addr7 : Addr7
  deriving DecidableEq, Repr

/-- A call of one of the transport's two primitives (R38). -/
inductive BusCall where
  /-- `BusWrite(addr7, bytes)` -/
  | write (addr : Addr7) (bytes : List Byte)
  /-- `BusRead(addr7, 5)` -/
  | read (addr : Addr7)
  deriving DecidableEq, Repr

/-- The device address a bus call names. -/
def BusCall.addr : BusCall → Addr7
  | .write a _ => a
  | .read a => a

/-- The transport's answer to a `BusWrite` (R38). -/
inductive WriteAnswer where
  | success
  | failure (e : TransportError)
  deriving DecidableEq, Repr

/-- The transport's answer to a `BusRead`: success fills exactly five bytes; anything else is a failure (R34, R38, R101). -/
inductive ReadAnswer where
  | filled (b0 b1 b2 b3 b4 : Byte)
  | failure (e : TransportError)
  deriving DecidableEq, Repr

/-- What a host-level operation returned to its caller (R92 to R96). -/
inductive HostResult where
  /-- `read` returned the decoded pair. -/
  | status (reg : RegisterStatus) (ee : EepromStatus)
  /-- A write operation succeeded. -/
  | success
  /-- The transport's error value, unchanged (R105). -/
  | err (e : TransportError)
  /-- `destroy` gave the transport handle back (R96). -/
  | handle (bus : BusHandle)
  deriving DecidableEq, Repr

/-- What the host asks for next. The block has no fetch and no operation-select code (R15, R42, D2), so a request is plain data
the host supplies. -/
inductive Request where
  /-- Run one operation of the block on operands: drive its port group, take its outputs (R42). -/
  | invoke (i : Instr)
  /-- Run the operation that these bytes are an image of, in the row the host names. -/
  | rowImage (row : Row) (bytes : List Byte)
  /-- Run the operation that these bytes are an image of, no row named. -/
  | image (bytes : List Byte)
  /-- Construct the orchestrator from a handle and an address (R91, R116). -/
  | construct (bus : BusHandle) (addr7 : Addr7)
  /-- Run a host-level operation of the orchestrator (R92 to R96). -/
  | host (op : HostOp)
  /-- Give the suspended operation its turn: it resumes if the transport has answered, and stays suspended if not (R40). DESIGN
  CHOICE (notes/assumptions/16.md): so the host's order says where an operation's end lies among evaluations of the block. -/
  | yield
  deriving DecidableEq, Repr

/-- The state: port levels, what the host holds, the orchestrator, and the two kinds of input from outside. -/
structure State where
  /-- The block's input ports (R16 to R18). -/
  inp : Inputs
  /-- TX: the command frame the host took from an encoder group (R25, R28, R29). DESIGN CHOICE (notes/assumptions/21.md): the
  host's copy stays until the next encoder operation, past the end of its bus transaction. -/
  tx : Memory
  /-- The last RegisterStatus the host took; none exists before the first (R22). -/
  reg : Option RegisterStatus
  /-- The last EEPROMStatus the host took; none exists before the first (R23). -/
  ee : Option EepromStatus
  /-- The last `pde_bits` the host took (R18). -/
  pdBits : Option ModeBits
  /-- The last `pdd_mode` the host took (R18). -/
  pdMode : Option PowerDownMode
  /-- The orchestrator; none before construction and after `destroy` (R91, R96). -/
  driver : Option Driver
  /-- The one bus transaction at which a host operation is suspended (R40, R97). -/
  inflight : Option BusCall
  /-- The transport calls made so far, oldest first (95_test_vectors.md section 3). -/
  calls : List BusCall
  /-- The results returned so far, oldest first (95_test_vectors.md section 3). -/
  results : List HostResult
  /-- The host's requests still to come, in its order (R40, R42). -/
  agenda : List Request
  /-- The transport's answers still to come to `BusWrite` calls: inputs from outside (R38, R122). -/
  writeAnswers : List WriteAnswer
  /-- The transport's answers still to come to `BusRead` calls: free inputs (R24, R38, R122). -/
  readAnswers : List ReadAnswer
  deriving DecidableEq, Repr

/-- The reasons a step can fault: NONE. "The block raises no exception, fault, trap or error, ever" (R100), and a transport
failure is a result the caller gets (R105), so this type has no constructor and no step can answer a fault. -/
inductive Fault where
  deriving DecidableEq, Repr

/-- The reasons a step has no meaning to run. No meaning of an instruction raises one: only the serving of a request does. -/
inductive Refusal where
  /-- An instruction without a meaning. Raised by no arm: every row has its meaning. Safe. -/
  | notModelled (mnemonic : String)
  /-- An image that is no word of its row (R34, R57, R58; U1, U4, U10). Raised by `serve` on a `rowImage` or `image` request.
  Safe: the spec says refuse. -/
  | badImage (e : DecodeError)
  /-- A host operation with no orchestrator: before construction, or after `destroy`, when "none of rules R92 to R95 can be
  invoked on it" (R96). Raised by `serve`. Safe. -/
  | noDriver
  /-- A construction while the one orchestrator of the model still holds its handle (R91, R108; notes/assumptions/8.md). Raised
  by `serve`. Safe. -/
  | driverHeld
  deriving DecidableEq, Repr

/-- The input ports at reset: the spec gives them no default (R27), so every level is zero, and the enumeration port at the
variant whose number is zero. DESIGN CHOICE, unsafe (notes/assumptions/2.md). -/
def Inputs.reset : Inputs :=
  { fwMode := 0#2, fwCode := 0#16, wrMode := 0#2, wrCode := 0#16, wrPersist := 0#1, svCode := 0#16, svPersist := 0#1,
    rxB0 := 0#8, rxB1 := 0#8, rxB2 := 0#8, rxB3 := 0#8, rxB4 := 0#8, pdeMode := .normal, pddBits := 0#2 }

/-- The machine before anything has run. The block needs no reset and reset changes nothing (R113); no frame exists (R25), no
status (R22, R23), no orchestrator (R27, R91), no transaction, and nothing has come from outside yet. -/
def State.reset : State :=
  { inp := Inputs.reset, tx := [], reg := none, ee := none, pdBits := none, pdMode := none, driver := none, inflight := none,
    calls := [], results := [], agenda := [], writeAnswers := [], readAnswers := [] }

end Sys2Proof.Machine
end

