-- ==== Sys2Proof/Machine/Units.lean ====
section
/-! DEFINITION. The block: its three units as pure total functions (R13, R72, R82), and `blockOutputs`, the whole combinational block
from input ports to output ports. -/

namespace Sys2Proof.Machine

/-! ### The Command Encoder (spec/41_command_encoder.md) -/

/-- `fast_write`: exactly two bytes (R68). -/
def fastWriteFrame (mode : PowerDownMode) (dacCode : Word16) : Vector Byte 2 :=
  let word := fwWord (pdEncode mode) (maskCode dacCode)
  #v[hiByte word, loByte word]

/-- `write`: exactly three bytes (R69). -/
def writeFrame (mode : PowerDownMode) (dacCode : Word16) (persist : Bool) : Vector Byte 3 :=
  let v := wrValue (maskCode dacCode)
  #v[wrByte0 (wrSelector persist) (pdEncode mode), hiByte v, loByte v]

/-- The result of `set_voltage` in its port form: the frame's length and three byte ports (R16, R70, D6). -/
structure SetVoltagePorts where
  len : BitVec 2
  b0 : Byte
  b1 : Byte
  b2 : Byte
  deriving DecidableEq, Repr

/-- `set_voltage`: `write` with mode Normal when persisting, else `fast_write` with mode Normal, the third byte port at `SV_PAD`
(R70). -/
def setVoltagePorts (dacCode : Word16) (persist : Bool) : SetVoltagePorts :=
  if persist then
    let f := writeFrame .normal dacCode true
    { len := 3#2, b0 := f[0], b1 := f[1], b2 := f[2] }
  else
    let f := fastWriteFrame .normal dacCode
    { len := 2#2, b0 := f[0], b1 := f[1], b2 := Config.svPad }

/-- The bytes of `set_voltage`'s frame: the first `sv_len` of its byte ports (R70, R95). -/
def SetVoltagePorts.frame (p : SetVoltagePorts) : List Byte := [p.b0, p.b1, p.b2].take p.len.toNat

/-! ### The Status Decoder (spec/42_status_decoder.md) -/

/-- `decode_register` (R79). -/
def decodeRegister (b0 b1 b2 : Byte) : RegisterStatus :=
  { raw := b0
    ready := boolOfBit (readyFlag b0)
    por := boolOfBit (porFlag b0)
    mode := pdDecode (registerModeField b0)
    code := registerCode b1 b2 }

/-- `decode_eeprom` (R80). -/
def decodeEeprom (b3 b4 : Byte) : EepromStatus :=
  { mode := pdDecode (eepromModeField b3)
    code := eepromCode b3 b4 }

/-- `decode_reply`: the two views of one reply of exactly five bytes (R34, R81). -/
def decodeReply (rx : Vector Byte 5) : RegisterStatus × EepromStatus :=
  (decodeRegister rx[0] rx[1] rx[2], decodeEeprom rx[3] rx[4])

/-! ### The whole block -/

/-- The five reply byte ports as the buffer they come from (R17, R28, R30). -/
def Inputs.rx (p : Inputs) : Vector Byte 5 := #v[p.rxB0, p.rxB1, p.rxB2, p.rxB3, p.rxB4]

/-- The block: every output port as a function of the input ports and of nothing else (R13). A mode port carries the 2-bit code
(R67), so the encoder's ports go through `pd_decode` and the decoder's through `pd_encode`. -/
def blockOutputs (p : Inputs) : Outputs :=
  let fw := fastWriteFrame (pdDecode p.fwMode) p.fwCode
  let wr := writeFrame (pdDecode p.wrMode) p.wrCode (boolOfBit p.wrPersist)
  let sv := setVoltagePorts p.svCode (boolOfBit p.svPersist)
  let views := decodeReply p.rx
  { fwB0 := fw[0], fwB1 := fw[1]
    wrB0 := wr[0], wrB1 := wr[1], wrB2 := wr[2]
    svLen := sv.len, svB0 := sv.b0, svB1 := sv.b1, svB2 := sv.b2
    regRaw := views.1.raw
    regReady := bitOfBool views.1.ready
    regPor := bitOfBool views.1.por
    regMode := pdEncode views.1.mode
    regCode := views.1.code
    eeMode := pdEncode views.2.mode
    eeCode := views.2.code
    pdeBits := pdEncode p.pdeMode
    pddMode := pdDecode p.pddBits }

end Sys2Proof.Machine
end

