-- ==== Sys2Proof/Machine/Ops.lean ====
section
/-! DEFINITION. The shared operations: byte spaces (R10, R28), driving a group's input ports and taking its outputs (R16 to R18,
R42). Nothing here traps: the block has no exception to take and none to return from (R100, R105, R106). -/

namespace Sys2Proof.Machine

/-! ### Byte spaces -/

/-- No byte: the space of a frame before its first byte is written (R25). -/
def Memory.empty : Memory := []

/-- The byte at an index, if there is one. -/
def Memory.read : Memory → Nat → Option Byte
  | [], _ => none
  | (b, v) :: rest, a => if a = b then some v else Memory.read rest a

/-- Write one byte at an index; the list stays in rising order. -/
def Memory.write : Memory → Nat → Byte → Memory
  | [], a, v => [(a, v)]
  | (b, w) :: rest, a, v =>
    if a < b then (a, v) :: (b, w) :: rest
    else if a = b then (a, v) :: rest
    else (b, w) :: Memory.write rest a v

/-- `MemWrite(i, 2, v)`: the more significant byte at the lower index (R10, R31). -/
def Memory.write16 (m : Memory) (i : Nat) (v : Word16) : Memory :=
  (m.write i (hiByte v)).write (i + 1) (loByte v)

/-- `MemRead(i, 2)`: the byte at the lower index is the more significant (R10, R31). -/
def Memory.read16 (m : Memory) (i : Nat) : Option Word16 :=
  match m.read i, m.read (i + 1) with
  | some hi, some lo => some (be16 hi lo)
  | _, _ => none

/-- The bytes of a space in index order (R38: `BusWrite` is given the TX bytes in index order). -/
def Memory.bytes (m : Memory) : List Byte := m.map (·.2)

/-- The reply buffer as a byte space: `RX[0]` to `RX[4]` (R10, R28, R30). -/
def Inputs.rxSpace (p : Inputs) : Memory :=
  ((((Memory.empty.write 0 p.rxB0).write 1 p.rxB1).write 2 p.rxB2).write 3 p.rxB3).write 4 p.rxB4

/-- `MemRead(i, 2)` on the reply buffer (R10). -/
def Inputs.rxRead16 (p : Inputs) (i : Nat) : Option Word16 := p.rxSpace.read16 i

/-! ### One setter per field -/

/-- Drive the input ports. -/
def State.setInp (s : State) (x : Inputs) : State := { s with inp := x }
/-- Take a command frame. -/
def State.setTx (s : State) (x : Memory) : State := { s with tx := x }
/-- Take a register status. -/
def State.setReg (s : State) (x : Option RegisterStatus) : State := { s with reg := x }
/-- Take an EEPROM status. -/
def State.setEe (s : State) (x : Option EepromStatus) : State := { s with ee := x }
/-- Take a mode's code. -/
def State.setPdBits (s : State) (x : Option ModeBits) : State := { s with pdBits := x }
/-- Take a code's mode. -/
def State.setPdMode (s : State) (x : Option PowerDownMode) : State := { s with pdMode := x }
/-- Construct or destroy the orchestrator. -/
def State.setDriver (s : State) (x : Option Driver) : State := { s with driver := x }
/-- Suspend at a bus transaction, or resume. -/
def State.setInflight (s : State) (x : Option BusCall) : State := { s with inflight := x }
/-- The transport calls made so far. -/
def State.setCalls (s : State) (x : List BusCall) : State := { s with calls := x }
/-- The results returned so far. -/
def State.setResults (s : State) (x : List HostResult) : State := { s with results := x }
/-- The host's requests still to come. -/
def State.setAgenda (s : State) (x : List Request) : State := { s with agenda := x }
/-- The transport's answers still to come to writes. -/
def State.setWriteAnswers (s : State) (x : List WriteAnswer) : State := { s with writeAnswers := x }
/-- The transport's answers still to come to reads. -/
def State.setReadAnswers (s : State) (x : List ReadAnswer) : State := { s with readAnswers := x }

/-! ### Driving a group's input ports (R16, R17, R18)

R16 leaves open whether the groups share wires. DESIGN CHOICE (notes/assumptions/22.md): they do not, so an operation drives the
ports of its own operands and every other input port keeps its level. -/

/-- Drive the `fw_*` group; the mode goes on its port as its 2-bit code (R67). The other groups' ports keep their levels: DESIGN
CHOICE (notes/assumptions/22.md). -/
def Inputs.driveFast (p : Inputs) (mode : PowerDownMode) (dacCode : Word16) : Inputs :=
  { p with fwMode := pdEncode mode, fwCode := dacCode }

/-- Drive the `wr_*` group. -/
def Inputs.driveWrite (p : Inputs) (mode : PowerDownMode) (dacCode : Word16) (persist : Bool) : Inputs :=
  { p with wrMode := pdEncode mode, wrCode := dacCode, wrPersist := bitOfBool persist }

/-- Drive the `sv_*` group. -/
def Inputs.driveVoltage (p : Inputs) (dacCode : Word16) (persist : Bool) : Inputs :=
  { p with svCode := dacCode, svPersist := bitOfBool persist }

/-- Drive `rx_b0` to `rx_b2`. `rx_b3` and `rx_b4` keep their levels, which may be an earlier reply's: DESIGN CHOICE
(notes/assumptions/23.md). -/
def Inputs.driveRegister (p : Inputs) (b0 b1 b2 : Byte) : Inputs :=
  { p with rxB0 := b0, rxB1 := b1, rxB2 := b2 }

/-- Drive `rx_b3` and `rx_b4`. `rx_b0` to `rx_b2` keep their levels, which may be an earlier reply's: DESIGN CHOICE
(notes/assumptions/23.md). -/
def Inputs.driveEeprom (p : Inputs) (b3 b4 : Byte) : Inputs :=
  { p with rxB3 := b3, rxB4 := b4 }

/-! ### Taking a group's outputs -/

/-- The output ports of a state: at every moment the function of its input ports (R13, R27). -/
def State.outputs (s : State) : Outputs := blockOutputs s.inp

/-- Take the `fw_*` frame into a fresh TX: one 16-bit quantity at index 0 (R29, R35). -/
def State.takeFast (s : State) : State :=
  s.setTx (Memory.empty.write16 0 (be16 s.outputs.fwB0 s.outputs.fwB1))

/-- Take the `wr_*` frame into a fresh TX: one byte at index 0 and one 16-bit quantity at index 1 (R29, R35). -/
def State.takeWrite (s : State) : State :=
  s.setTx ((Memory.empty.write 0 s.outputs.wrB0).write16 1 (be16 s.outputs.wrB1 s.outputs.wrB2))

/-- Take the `sv_*` frame into a fresh TX: bytes 0 and 1, and byte 2 when `sv_len` is 3 (R29, R70). -/
def State.takeVoltage (s : State) : State :=
  let two := (Memory.empty.write 0 s.outputs.svB0).write 1 s.outputs.svB1
  s.setTx (if s.outputs.svLen = 3#2 then two.write 2 s.outputs.svB2 else two)

/-- Take the register view off its ports (R17, R22). -/
def State.takeRegister (s : State) : State :=
  s.setReg (some
    { raw := s.outputs.regRaw
      ready := boolOfBit s.outputs.regReady
      por := boolOfBit s.outputs.regPor
      mode := pdDecode s.outputs.regMode
      code := s.outputs.regCode })

/-- Take the EEPROM view off its ports (R17, R23). -/
def State.takeEeprom (s : State) : State :=
  s.setEe (some { mode := pdDecode s.outputs.eeMode, code := s.outputs.eeCode })

/-! ### One operation of a unit: drive, then take -/

/-- `fast_write` on the `fw_*` group (R68). -/
def State.runFast (s : State) (mode : PowerDownMode) (dacCode : Word16) : State :=
  (s.setInp (s.inp.driveFast mode dacCode)).takeFast

/-- `write` on the `wr_*` group (R69). -/
def State.runWrite (s : State) (mode : PowerDownMode) (dacCode : Word16) (persist : Bool) : State :=
  (s.setInp (s.inp.driveWrite mode dacCode persist)).takeWrite

/-- `set_voltage` on the `sv_*` group (R70). -/
def State.runVoltage (s : State) (dacCode : Word16) (persist : Bool) : State :=
  (s.setInp (s.inp.driveVoltage dacCode persist)).takeVoltage

/-- `decode_register` on `rx_b0` to `rx_b2` (R79). -/
def State.runRegister (s : State) (b0 b1 b2 : Byte) : State :=
  (s.setInp (s.inp.driveRegister b0 b1 b2)).takeRegister

/-- `decode_eeprom` on `rx_b3` and `rx_b4` (R80). -/
def State.runEeprom (s : State) (b3 b4 : Byte) : State :=
  (s.setInp (s.inp.driveEeprom b3 b4)).takeEeprom

/-- `decode_reply`: all five bytes come from one reply, and both views are taken (R81, R118). -/
def State.runReply (s : State) (b0 b1 b2 b3 b4 : Byte) : State :=
  ((s.setInp ((s.inp.driveRegister b0 b1 b2).driveEeprom b3 b4)).takeRegister).takeEeprom

/-- `pd_encode` on `pde_mode` (R64). -/
def State.runPdEncode (s : State) (mode : PowerDownMode) : State :=
  let t := s.setInp { s.inp with pdeMode := mode }
  t.setPdBits (some t.outputs.pdeBits)

/-- `pd_decode` on `pdd_bits` (R65). -/
def State.runPdDecode (s : State) (bits : ModeBits) : State :=
  let t := s.setInp { s.inp with pddBits := bits }
  t.setPdMode (some t.outputs.pddMode)

/-- A row of format PD: the variant on `pde_mode`, its code on `pdd_bits`, and what the codec answers to each
(R48, R63; DESIGN CHOICE, notes/assumptions/6.md). -/
def State.runVariant (s : State) (mode : PowerDownMode) (bits : ModeBits) : State :=
  (s.runPdEncode mode).runPdDecode bits

end Sys2Proof.Machine
end

