-- ==== Sys2Proof/Machine/Codec.lean ====
section
/-! DEFINITION. The meanings of the PowerDownMode codec's rows (spec/40_pd_codec.md). -/

namespace Sys2Proof.Machine

/-- PD_NORMAL: the variant Normal and the code `00` (R63). -/
def execPdNormal (s : State) : Host.Outcome State Fault Refusal :=
  .next (s.runVariant .normal 0b00#2)

/-- PD_ONEK: the variant OneK and the code `01` (R63). -/
def execPdOneK (s : State) : Host.Outcome State Fault Refusal :=
  .next (s.runVariant .oneK 0b01#2)

/-- PD_ONEHUNDREDK: the variant OneHundredK and the code `10` (R63). -/
def execPdOneHundredK (s : State) : Host.Outcome State Fault Refusal :=
  .next (s.runVariant .oneHundredK 0b10#2)

/-- PD_FIVEHUNDREDK: the variant FiveHundredK and the code `11` (R63). -/
def execPdFiveHundredK (s : State) : Host.Outcome State Fault Refusal :=
  .next (s.runVariant .fiveHundredK 0b11#2)

/-- PD_ENCODE: `pd_encode` (R64). -/
def execPdEncode (mode : PowerDownMode) (s : State) : Host.Outcome State Fault Refusal :=
  .next (s.runPdEncode mode)

/-- PD_DECODE: `pd_decode` (R65). -/
def execPdDecode (bits : ModeBits) (s : State) : Host.Outcome State Fault Refusal :=
  .next (s.runPdDecode bits)

end Sys2Proof.Machine
end

