-- ==== Sys2Proof/Machine/Decoder.lean ====
section
/-! DEFINITION. The meanings of the Status Decoder's rows (spec/42_status_decoder.md): each drives its reply byte ports and takes
its view. Decoding never fails (R82). -/

namespace Sys2Proof.Machine

/-- READ_REPLY: `decode_reply` (R81). -/
def execReadReply (b0 b1 b2 b3 b4 : Byte) (s : State) : Host.Outcome State Fault Refusal :=
  .next (s.runReply b0 b1 b2 b3 b4)

/-- REG_STATUS: `decode_register` (R79). -/
def execRegStatus (b0 b1 b2 : Byte) (s : State) : Host.Outcome State Fault Refusal :=
  .next (s.runRegister b0 b1 b2)

/-- EEPROM_STATUS: `decode_eeprom` (R80). -/
def execEepromStatus (b3 b4 : Byte) (s : State) : Host.Outcome State Fault Refusal :=
  .next (s.runEeprom b3 b4)

end Sys2Proof.Machine
end

