-- ==== Sys2Proof/Machine/Encoder.lean ====
section
/-! DEFINITION. The meanings of the Command Encoder's rows (spec/41_command_encoder.md): each drives its port group and takes the
frame. All are total (R72); none touches the bus (R93 to R95 do, Machine/Orchestrator.lean). -/

namespace Sys2Proof.Machine

/-- FAST_WRITE (R68). -/
def execFastWrite (mode : PowerDownMode) (dacCode : Word16) (s : State) : Host.Outcome State Fault Refusal :=
  .next (s.runFast mode dacCode)

/-- WRITE_REG: `write` with `persist_to_eeprom` false (R69). -/
def execWriteReg (mode : PowerDownMode) (dacCode : Word16) (s : State) : Host.Outcome State Fault Refusal :=
  .next (s.runWrite mode dacCode false)

/-- WRITE_EEPROM: `write` with `persist_to_eeprom` true (R69). -/
def execWriteEeprom (mode : PowerDownMode) (dacCode : Word16) (s : State) : Host.Outcome State Fault Refusal :=
  .next (s.runWrite mode dacCode true)

/-- SET_VOLTAGE_FAST: `set_voltage` with `persist_to_eeprom` false (R70). -/
def execSetVoltageFast (dacCode : Word16) (s : State) : Host.Outcome State Fault Refusal :=
  .next (s.runVoltage dacCode false)

/-- SET_VOLTAGE_PERSIST: `set_voltage` with `persist_to_eeprom` true (R70). -/
def execSetVoltagePersist (dacCode : Word16) (s : State) : Host.Outcome State Fault Refusal :=
  .next (s.runVoltage dacCode true)

end Sys2Proof.Machine
end

