-- ==== Sys2Proof/Machine/Dispatch.lean ====
section
/-! DEFINITION. One arm per constructor of Instr, each a direct call of its meaning. -/

namespace Sys2Proof.Machine

/-- The meaning of an instruction. -/
def exec (i : Instr) (s : State) : Host.Outcome State Fault Refusal :=
  match i with
  | .fastWrite mode dacCode => Sys2Proof.Machine.execFastWrite mode dacCode s
  | .writeReg mode dacCode => Sys2Proof.Machine.execWriteReg mode dacCode s
  | .writeEeprom mode dacCode => Sys2Proof.Machine.execWriteEeprom mode dacCode s
  | .setVoltageFast dacCode => Sys2Proof.Machine.execSetVoltageFast dacCode s
  | .setVoltagePersist dacCode => Sys2Proof.Machine.execSetVoltagePersist dacCode s
  | .readReply b0 b1 b2 b3 b4 => Sys2Proof.Machine.execReadReply b0 b1 b2 b3 b4 s
  | .regStatus b0 b1 b2 => Sys2Proof.Machine.execRegStatus b0 b1 b2 s
  | .eepromStatus b3 b4 => Sys2Proof.Machine.execEepromStatus b3 b4 s
  | .pdNormal => Sys2Proof.Machine.execPdNormal s
  | .pdOneK => Sys2Proof.Machine.execPdOneK s
  | .pdOneHundredK => Sys2Proof.Machine.execPdOneHundredK s
  | .pdFiveHundredK => Sys2Proof.Machine.execPdFiveHundredK s
  | .pdEncode mode => Sys2Proof.Machine.execPdEncode mode s
  | .pdDecode bits => Sys2Proof.Machine.execPdDecode bits s

end Sys2Proof.Machine
end

