-- ==== Sys2Proof/Machine/Orchestrator.lean ====
section
/-! DEFINITION. The driver orchestrator and the transport boundary (spec/43_host_operations.md, R38, R40, R97, R105, R122): the
context that runs the block. A host operation issues exactly one bus transaction, is suspended there, and resumes at its turn when
the transport's answer is at hand; an answer that never comes leaves it suspended (R122). Meanwhile the host may evaluate the block
as it likes (R119), but start no operation on the orchestrator. -/

namespace Sys2Proof.Machine

open Config (BusHandle)

/-- Issue the operation's one bus transaction and suspend at it (R40, R97). -/
def State.issue (s : State) (c : BusCall) : State :=
  (s.setCalls (s.calls ++ [c])).setInflight (some c)

/-- End the suspended operation with its result (R97). The host's copy of the frame stays in TX: DESIGN CHOICE
(notes/assumptions/21.md). -/
def State.finish (s : State) (r : HostResult) : State :=
  (s.setResults (s.results ++ [r])).setInflight none

/-- Hand TX, in index order, to `BusWrite` (R29, R38). -/
def State.sendTx (s : State) (d : Driver) : State := s.issue (.write d.addr7 s.tx.bytes)

/-- Start `read()` (R92): nothing is sent before the read. -/
def startRead (d : Driver) (s : State) : State := s.issue (.read d.addr7)

/-- Start `fast_write` (R93). -/
def startFastWrite (mode : PowerDownMode) (dacCode : Word16) (d : Driver) (s : State) : State :=
  (s.runFast mode dacCode).sendTx d

/-- Start `write` (R94). -/
def startWrite (mode : PowerDownMode) (dacCode : Word16) (persist : Bool) (d : Driver) (s : State) : State :=
  (s.runWrite mode dacCode persist).sendTx d

/-- Start `set_voltage` (R95): exactly `sv_len` bytes are sent. -/
def startSetVoltage (dacCode : Word16) (persist : Bool) (d : Driver) (s : State) : State :=
  (s.runVoltage dacCode persist).sendTx d

/-- `destroy()` (R96): the handle goes back to the caller; no transaction. -/
def runDestroy (d : Driver) (s : State) : State :=
  (s.setResults (s.results ++ [.handle d.bus])).setDriver none

/-- A host operation on a live orchestrator (R92 to R96). -/
def startHostOp (op : HostOp) (d : Driver) (s : State) : State :=
  match op with
  | .read => startRead d s
  | .fastWrite mode dacCode => startFastWrite mode dacCode d s
  | .write mode dacCode persist => startWrite mode dacCode persist d s
  | .setVoltage dacCode persist => startSetVoltage dacCode persist d s
  | .destroy => runDestroy d s

/-- A host operation: it needs a live orchestrator (R96). -/
def runHostOp (op : HostOp) (s : State) : Host.Outcome State Fault Refusal :=
  match s.driver with
  | some d => .next (startHostOp op d s)
  | none => .refused .noDriver

/-- Construct the orchestrator from a handle and an address (R91, R116). The model has one orchestrator. -/
def runConstruct (bus : BusHandle) (addr7 : Addr7) (s : State) : Host.Outcome State Fault Refusal :=
  match s.driver with
  | some _ => .refused .driverHeld
  | none => .next (s.setDriver (some { bus := bus, addr7 := addr7 }))

/-- Run the instruction a decoder read, or refuse by the name of what is wrong with the bytes (R34, R57, R58). -/
def runDecoded (r : Decoded) (s : State) : Host.Outcome State Fault Refusal :=
  match r with
  | .ok i => exec i s
  | .reject e => .refused (.badImage e)

/-- Resume a suspended write: the transport's answer is passed through unchanged (R93, R105); no answer yet: still suspended
(R122). -/
def resumeWrite (s : State) : State :=
  match s.writeAnswers with
  | [] => s
  | .success :: rest => (s.setWriteAnswers rest).finish .success
  | .failure e :: rest => (s.setWriteAnswers rest).finish (.err e)

/-- The pair a read returns: the two views the decoder's ports show (R81, R92). -/
def State.statusResult (s : State) : HostResult :=
  .status (decodeReply s.inp.rx).1 (decodeReply s.inp.rx).2

/-- A read that succeeded: the five bytes go to the decoder, and its pair is the result (R92). -/
def finishRead (b0 b1 b2 b3 b4 : Byte) (s : State) : State :=
  let t := s.runReply b0 b1 b2 b3 b4
  t.finish t.statusResult

/-- Resume a suspended read: on success the reply is decoded; on failure the error is passed through unchanged and the decoder
is not run (R92, R105); no answer yet: still suspended (R122). -/
def resumeRead (s : State) : State :=
  match s.readAnswers with
  | [] => s
  | .filled b0 b1 b2 b3 b4 :: rest => finishRead b0 b1 b2 b3 b4 (s.setReadAnswers rest)
  | .failure e :: rest => (s.setReadAnswers rest).finish (.err e)

/-- Resume the host operation suspended at a bus transaction (R40, R97). -/
def resume (c : BusCall) (s : State) : State :=
  match c with
  | .write _ _ => resumeWrite s
  | .read _ => resumeRead s

/-- The turn of the suspended operation, if there is one (R40: cooperative suspension). -/
def State.takeTurn (s : State) : State :=
  match s.inflight with
  | some c => resume c s
  | none => s

/-- Serve one request of the host. -/
def serve (r : Request) (s : State) : Host.Outcome State Fault Refusal :=
  match r with
  | .invoke i => exec i s
  | .rowImage row bytes => runDecoded (decodeRow row bytes) s
  | .image bytes => runDecoded (decodeImage bytes) s
  | .construct bus addr7 => runConstruct bus addr7 s
  | .host op => runHostOp op s
  | .yield => .next s.takeTurn

/-- The requests that need the orchestrator free: no two operations on it overlap (R40, R119). An evaluation of the block needs
nothing: its functions are pure and "can be evaluated at any time" (R119). -/
def Request.needsOrchestrator : Request → Bool
  | .construct _ _ => true
  | .host _ => true
  | .invoke _ => false
  | .rowImage _ _ => false
  | .image _ => false
  | .yield => false

/-- What happens next. The host's next request is served, also while an operation is suspended, unless it needs the orchestrator:
then, and when nothing is asked, the suspended operation has its turn. With nothing suspended and nothing asked, nothing happens
(the block does nothing of itself, R15). -/
def advance (s : State) : Host.Outcome State Fault Refusal :=
  match s.agenda with
  | [] => .next s.takeTurn
  | r :: rest =>
    if r.needsOrchestrator && s.inflight.isSome then .next s.takeTurn
    else serve r (s.setAgenda rest)

end Sys2Proof.Machine
end

