-- ==== Sys2Proof/Machine/Step.lean ====
section
/-! DEFINITION. One step, and placing an instruction's word where the next step takes it. -/

namespace Sys2Proof.Machine

/-- One step of the machine. -/
def step (s : State) : Host.Outcome State Fault Refusal := advance s

/-- The state with a table word of `nbits` bits as the host's very next request: its bytes, byte 0 first, stand at the head of
the agenda, so that the next step reads and runs them, also while a host operation is suspended (R119; notes/assumptions/3.md). -/
def State.withFetchWord (s : State) (nbits w : Nat) : State :=
  { s with agenda := .image (bytesOfWord ((nbits + 7) / 8) w) :: s.agenda }

end Sys2Proof.Machine
end

