-- ==== Sys2Proof/Safety.lean ====
section
/-! DEFINITION. What counts as a safe state and a safe run, and the relations the statements use. -/

namespace Sys2Proof.Machine

open Config (TransportError)

/-! ### What the block can emit, and what the decoder can produce -/

/-- The constant-zero bits of a full-write frame: byte 0 bits 4-3 and bit 0, byte 2 bits 3-0 (R55). -/
def writeZeroBits (b0 b2 : Byte) : Bool :=
  b0.extractLsb' 3 2 == 0#2 && b0.extractLsb' 0 1 == 0#1 && b2.extractLsb' 0 4 == 0#4

/-- A frame that the table's emitted rows admit: two bytes with the selector `00`, or three bytes with `010` or `011` and zeros in
the constant-zero positions (R54, R55, R58). -/
def emittable : List Byte → Bool
  | [b0, _] => b0.extractLsb' 6 2 == 0b00#2
  | [b0, _, b2] => (b0.extractLsb' 5 3 == 0b010#3 || b0.extractLsb' 5 3 == 0b011#3) && writeZeroBits b0 b2
  | _ => false

/-- The two flags and the mode agree with the raw byte (R85). -/
def RegisterStatus.agreesWithRaw (r : RegisterStatus) : Prop :=
  r.ready = r.raw.getLsbD 7 ∧ r.por = r.raw.getLsbD 6 ∧ pdEncode r.mode = r.raw.extractLsb' 1 2

/-- The invariant of the machine. -/
structure State.Inv (s : State) : Prop where
  /-- TX is in canonical form. -/
  txCanonical : s.tx.wf = true
  /-- TX is empty or holds, from index 0 on and without a gap, a frame some operation emits (R29, R55, R58). -/
  txFrame : s.tx = [] ∨ (emittable s.tx.bytes = true ∧ s.tx.map (·.1) = List.range s.tx.length)
  /-- A register status agrees with its raw byte (R85). -/
  regAgrees : ∀ r, s.reg = some r → r.agreesWithRaw
  /-- Every frame handed to the transport is one some operation emits: 2 or 3 bytes, never doubled (R29, R57). -/
  callsEmittable : ∀ a bytes, BusCall.write a bytes ∈ s.calls → emittable bytes = true
  /-- A transaction in flight is the last call made, and the live orchestrator's (R40, R97). -/
  inflightOwned : ∀ c, s.inflight = some c →
    s.calls.getLast? = some c ∧ ∃ d, s.driver = some d ∧ d.addr7 = c.addr

/-- A result that ended a bus transaction: all but the handle that `destroy` returns (R96, R97). -/
def HostResult.endsTransaction : HostResult → Bool
  | .handle _ => false
  | _ => true

/-- Every transport call made belongs to one result returned, but for the one in flight (R97). -/
def State.CallsMatchResults (s : State) : Prop :=
  s.calls.length = s.results.countP (·.endsTransaction) + (if s.inflight.isSome then 1 else 0)

/-! ### Safe runs -/

/-- Whether a request can be served when an orchestrator is alive (`alive`) or not. -/
def Request.servable (alive : Bool) : Request → Bool
  | .invoke _ => true
  | .rowImage row bytes => (decodeRow row bytes).instr?.isSome
  | .image bytes => (decodeImage bytes).instr?.isSome
  | .construct _ _ => !alive
  | .host _ => alive
  | .yield => true

/-- Whether an orchestrator is alive after a request. -/
def Request.aliveAfter (alive : Bool) : Request → Bool
  | .construct _ _ => true
  | .host .destroy => false
  | _ => alive

/-- Every request of a list can be served in its turn: images are words of their rows, and host operations stand between a
construction and its `destroy` (R96, R116). -/
def servableAll : Bool → List Request → Bool
  | _, [] => true
  | alive, r :: rest => r.servable alive && servableAll (r.aliveAfter alive) rest

/-! ### The turn of a suspended operation (R40) -/

/-- Whether an agenda gives a suspended operation its turn: the host asks for nothing, or yields, or asks for what must wait. -/
def turnAt : List Request → Bool
  | [] => true
  | .yield :: _ => true
  | .construct _ _ :: _ => true
  | .host _ :: _ => true
  | .invoke _ :: _ => false
  | .rowImage _ _ :: _ => false
  | .image _ :: _ => false

/-- The agenda after that turn: only a `yield` is used up by it. -/
def afterTurn : List Request → List Request
  | .yield :: rest => rest
  | agenda => agenda

/-! ### Relations between states -/

/-- Nothing of the orchestrator, of the host's requests or of the transport differs. -/
def State.SameHost (s t : State) : Prop :=
  t.driver = s.driver ∧ t.inflight = s.inflight ∧ t.calls = s.calls ∧ t.results = s.results ∧ t.agenda = s.agenda ∧
  t.writeAnswers = s.writeAnswers ∧ t.readAnswers = s.readAnswers

/-- The status views the host holds do not differ. -/
def State.SameViews (s t : State) : Prop := t.reg = s.reg ∧ t.ee = s.ee

/-- The codec results the host holds do not differ. -/
def State.SameCodec (s t : State) : Prop := t.pdBits = s.pdBits ∧ t.pdMode = s.pdMode

/-- The `fw_*`, `wr_*` and `sv_*` input ports do not differ. -/
def Inputs.SameEncoderPorts (p q : Inputs) : Prop :=
  q.fwMode = p.fwMode ∧ q.fwCode = p.fwCode ∧ q.wrMode = p.wrMode ∧ q.wrCode = p.wrCode ∧ q.wrPersist = p.wrPersist ∧
  q.svCode = p.svCode ∧ q.svPersist = p.svPersist

/-- The codec's input ports do not differ. -/
def Inputs.SameCodecPorts (p q : Inputs) : Prop := q.pdeMode = p.pdeMode ∧ q.pddBits = p.pddBits

/-! ### Renaming the transport's error values (R101: they are opaque) -/

/-- Rename the errors in a transport answer to a write. -/
def WriteAnswer.mapErr (f : TransportError → TransportError) : WriteAnswer → WriteAnswer
  | .success => .success
  | .failure e => .failure (f e)

/-- Rename the errors in a transport answer to a read. -/
def ReadAnswer.mapErr (f : TransportError → TransportError) : ReadAnswer → ReadAnswer
  | .filled b0 b1 b2 b3 b4 => .filled b0 b1 b2 b3 b4
  | .failure e => .failure (f e)

/-- Rename the errors in a result. -/
def HostResult.mapErr (f : TransportError → TransportError) : HostResult → HostResult
  | .status reg ee => .status reg ee
  | .success => .success
  | .err e => .err (f e)
  | .handle bus => .handle bus

/-- Rename every transport error of a state. -/
def State.mapErr (f : TransportError → TransportError) (s : State) : State :=
  { s with results := s.results.map (·.mapErr f)
           writeAnswers := s.writeAnswers.map (·.mapErr f)
           readAnswers := s.readAnswers.map (·.mapErr f) }

end Sys2Proof.Machine
end

