-- ==== Sys2Proof/Certificates/Slice0/Obligations.lean ====
section
/-! DEFINITION. The statements for the provers. Each docstring names the rule of spec/ it formalises; what is the model's own
choice is said there with its log entry. -/

open Sys2Proof Sys2Proof.Machine
open Sys2Proof.Config (TransportError BusHandle)

/-! ### Reset, the step, and the decoder -/

/-- R25, R27, R91: before anything runs no frame, status, orchestrator, call or result exists. (The levels of the input ports at
reset are the model's choice, notes/assumptions/2.md, and are not stated.) -/
def Obligations.ResetHoldsNothing : Prop :=
  State.reset.tx = [] ∧ State.reset.reg = none ∧ State.reset.ee = none ∧ State.reset.driver = none ∧
  State.reset.inflight = none ∧ State.reset.calls = [] ∧ State.reset.results = []

/-- R42, R119: the step runs the instruction the host asks for, by name or as bytes the decoder reads, also while a host operation
is suspended at its transaction. -/
def Obligations.StepRunsTheDecodedInstruction : Prop :=
  ∀ (s : State) (rest : List Request) (i : Instr),
    (s.agenda = .invoke i :: rest → step s = exec i { s with agenda := rest }) ∧
    (∀ row bytes, s.agenda = .rowImage row bytes :: rest → decodeRow row bytes = .ok i →
      step s = exec i { s with agenda := rest }) ∧
    (∀ bytes, s.agenda = .image bytes :: rest → decodeImage bytes = .ok i → step s = exec i { s with agenda := rest })

/-- The next step from a state with a table word placed in it runs the word's instruction. -/
def Obligations.PlacedWordRunsNext : Prop :=
  ∀ (s : State) (nbits w : Nat) (i : Instr), decodeTableWord nbits w = some i →
    step (s.withFetchWord nbits w) = exec i s

/-- R45 to R48 and the worked examples of spec/95_test_vectors.md: words written from the spec's layouts decode to the operations
they stand for. -/
def Obligations.SpecWordsDecode : Prop :=
  decodeRow .fastWrite [0b00011010#8, 0b10101010#8] = .ok (.fastWrite .oneK 0xAAA#16) ∧
  decodeRow .writeReg [0b01000100#8, 0b10101011#8, 0b11000000#8] = .ok (.writeReg .oneHundredK 0xABC#16) ∧
  decodeRow .writeEeprom [0b01100110#8, 0b10101010#8, 0b10100000#8] = .ok (.writeEeprom .fiveHundredK 0xAAA#16) ∧
  decodeRow .setVoltageFast [0b00001000#8, 0b00000000#8] = .ok (.setVoltageFast 0x800#16) ∧
  decodeRow .setVoltagePersist [0b01100000#8, 0b10000000#8, 0b00000000#8] = .ok (.setVoltagePersist 0x800#16) ∧
  decodeRow .pdOneHundredK [0b10#8] = .ok .pdOneHundredK ∧
  decodeRow .pdDecode [0b11#8] = .ok (.pdDecode 0b11#2)

/-- R34, R57, R58 (U1, U4, U10): bytes that are no word of their row are refused under the name of what is wrong, and no state
follows. -/
def Obligations.BadImagesAreRefused : Prop :=
  ∀ (s : State) (rest : List Request) (e : DecodeError),
    (∀ row bytes, s.agenda = .rowImage row bytes :: rest → decodeRow row bytes = .reject e →
      step s = .refused (.badImage e)) ∧
    (∀ bytes, s.agenda = .image bytes :: rest → decodeImage bytes = .reject e → step s = .refused (.badImage e))

/-- Headline: decoding the encoding of a well-formed instruction, in its row, gives it back with every operand. -/
def Obligations.DecodeOfEncode : Prop :=
  ∀ i : Instr, i.wf = true → decodeRow i.row (encode i) = .ok i

/-- What a row's decoder accepts is exactly one well-formed instruction of that row, whose encoding is the bytes. -/
def Obligations.EncodeOfDecode : Prop :=
  ∀ (row : Row) (bytes : List Byte) (i : Instr), decodeRow row bytes = .ok i →
    i.wf = true ∧ i.row = row ∧ encode i = bytes

/-- The decoder of bytes with no row (the model's choice, notes/assumptions/4.md) only ever gives an instruction whose encoding is
those bytes. -/
def Obligations.EncodeOfDecodeImage : Prop :=
  ∀ (bytes : List Byte) (i : Instr), decodeImage bytes = .ok i → i.wf = true ∧ encode i = bytes

/-- R44, R57, R59: images of 2, 3 and 5 bytes always decode, a byte decodes when only its low two bits are set, the doubled
lengths 4 and 6 are refused as such, and no other length decodes. -/
def Obligations.ImageLengths : Prop :=
  ∀ bytes : List Byte,
    (bytes.length = 2 ∨ bytes.length = 3 ∨ bytes.length = 5 → ∃ i, decodeImage bytes = .ok i) ∧
    (∀ b, bytes = [b] → ((∃ i, decodeImage bytes = .ok i) ↔ b.toNat < 4)) ∧
    (bytes.length = 4 ∨ bytes.length = 6 → decodeImage bytes = .reject .doubledFrame) ∧
    (bytes.length = 0 ∨ 6 < bytes.length → decodeImage bytes = .reject (.length bytes.length))

/-- R58 and U4: a command frame whose byte 0 has bit 7 set carries a selector the spec gives no meaning to; every command row
refuses it. -/
def Obligations.UnassignedSelectorsAreRefused : Prop :=
  ∀ b0 b1 b2 : Byte, b0.getLsbD 7 = true →
    (∀ row, row = .fastWrite ∨ row = .setVoltageFast → decodeRow row [b0, b1] = .reject .unassignedSelector) ∧
    (∀ row, row = .writeReg ∨ row = .writeEeprom ∨ row = .setVoltagePersist →
      decodeRow row [b0, b1, b2] = .reject .unassignedSelector)

/-- R34 and U10: `decode_reply` takes exactly five bytes; any other number is refused before the decoder. -/
def Obligations.ReplyIsFiveBytes : Prop :=
  ∀ bytes : List Byte,
    (bytes.length ≠ 5 → decodeRow .readReply bytes = .reject (.replyLength bytes.length)) ∧
    (bytes.length = 5 → ∃ b0 b1 b2 b3 b4, bytes = [b0, b1, b2, b3, b4] ∧
      decodeRow .readReply bytes = .ok (.readReply b0 b1 b2 b3 b4))

/-! ### The PowerDownMode codec -/

/-- R64: `pd_encode` by its four rows, on every state, with nothing else changed but its input port. (That every other input
port keeps its level is the model's choice, notes/assumptions/22.md.) -/
def Obligations.PdEncodeTable : Prop :=
  ∀ s : State,
    exec (.pdEncode .normal) s =
      .next { s with inp := { s.inp with pdeMode := .normal }, pdBits := some 0b00#2 } ∧
    exec (.pdEncode .oneK) s =
      .next { s with inp := { s.inp with pdeMode := .oneK }, pdBits := some 0b01#2 } ∧
    exec (.pdEncode .oneHundredK) s =
      .next { s with inp := { s.inp with pdeMode := .oneHundredK }, pdBits := some 0b10#2 } ∧
    exec (.pdEncode .fiveHundredK) s =
      .next { s with inp := { s.inp with pdeMode := .fiveHundredK }, pdBits := some 0b11#2 }

/-- R65: `pd_decode` by its four rows, on every state, with nothing else changed but its input port; every 2-bit pattern is one
of the four. (That every other input port keeps its level is the model's choice, notes/assumptions/22.md.) -/
def Obligations.PdDecodeTable : Prop :=
  (∀ s : State,
    exec (.pdDecode 0b00#2) s = .next { s with inp := { s.inp with pddBits := 0b00#2 }, pdMode := some .normal } ∧
    exec (.pdDecode 0b01#2) s = .next { s with inp := { s.inp with pddBits := 0b01#2 }, pdMode := some .oneK } ∧
    exec (.pdDecode 0b10#2) s = .next { s with inp := { s.inp with pddBits := 0b10#2 }, pdMode := some .oneHundredK } ∧
    exec (.pdDecode 0b11#2) s = .next { s with inp := { s.inp with pddBits := 0b11#2 }, pdMode := some .fiveHundredK }) ∧
  (∀ b : ModeBits, b = 0b00#2 ∨ b = 0b01#2 ∨ b = 0b10#2 ∨ b = 0b11#2)

/-- R63: each variant's row pairs the variant with its own code, in both directions. (That a row of format PD runs as the codec
on its variant and its code is the model's choice, notes/assumptions/6.md.) (That the encoder's and the reply ports keep their
levels is the model's choice too, notes/assumptions/22.md.) -/
def Obligations.VariantRowsPairModeAndCode : Prop :=
  ∀ s : State,
    exec .pdNormal s = .next { s with
      inp := { s.inp with pdeMode := .normal, pddBits := 0b00#2 }, pdBits := some 0b00#2, pdMode := some .normal } ∧
    exec .pdOneK s = .next { s with
      inp := { s.inp with pdeMode := .oneK, pddBits := 0b01#2 }, pdBits := some 0b01#2, pdMode := some .oneK } ∧
    exec .pdOneHundredK s = .next { s with
      inp := { s.inp with pdeMode := .oneHundredK, pddBits := 0b10#2 }, pdBits := some 0b10#2,
      pdMode := some .oneHundredK } ∧
    exec .pdFiveHundredK s = .next { s with
      inp := { s.inp with pdeMode := .fiveHundredK, pddBits := 0b11#2 }, pdBits := some 0b11#2,
      pdMode := some .fiveHundredK }

/-- R66: `pd_encode` and `pd_decode` are inverse bijections, and a variant's code is its number in two bits. -/
def Obligations.CodecIsABijection : Prop :=
  (∀ m : PowerDownMode, pdDecode (pdEncode m) = m) ∧ (∀ b : ModeBits, pdEncode (pdDecode b) = b) ∧
  (∀ m : PowerDownMode, pdEncode m = BitVec.ofNat 2 (pdNumber m))

/-! ### The Command Encoder -/

/-- R68: `fast_write` on every mode, every 16-bit code and every state: the group's ports carry the operands, TX is the two
bytes of the word `00 ++ p ++ c`, that word is `(zext p << 12) | c`, and nothing else changes. (That every input port outside
the group keeps its level is the model's choice, notes/assumptions/22.md.) -/
def Obligations.FastWriteResult : Prop :=
  ∀ (m : PowerDownMode) (d : Word16) (s : State),
    let p : ModeBits := pdEncode m
    let c : Code := (d &&& 0x0FFF#16).setWidth 12
    let b0 : Byte := 0b00#2 ++ p ++ c.extractLsb' 8 4
    let b1 : Byte := c.extractLsb' 0 8
    exec (.fastWrite m d) s =
      .next { s with inp := { s.inp with fwMode := p, fwCode := d }, tx := [(0, b0), (1, b1)] } ∧
    be16 b0 b1 = (p.setWidth 16 <<< 12) ||| (d &&& 0x0FFF#16)

/-- R69: `write` for both values of `persist_to_eeprom`, on every mode, code and state: TX is `sel 00 p 0`, then the code
shifted left by 4 big-endian; byte 0 is `0x40` or `0x60` with the mode at bits 2-1; nothing else changes but the group's ports.
(That every input port outside the group keeps its level is the model's choice, notes/assumptions/22.md; the level of
`wr_persist` is the spec's decision D8, notes/assumptions/20.md.) -/
def Obligations.FullWriteResult : Prop :=
  ∀ (m : PowerDownMode) (d : Word16) (persist : Bool) (s : State),
    let p : ModeBits := pdEncode m
    let sel : BitVec 3 := if persist then 0b011#3 else 0b010#3
    let c : Code := (d &&& 0x0FFF#16).setWidth 12
    let b0 : Byte := sel ++ 0b00#2 ++ p ++ 0b0#1
    let b1 : Byte := c.extractLsb' 4 8
    let b2 : Byte := c.extractLsb' 0 4 ++ 0b0000#4
    exec (if persist then .writeEeprom m d else .writeReg m d) s =
      .next { s with
        inp := { s.inp with wrMode := p, wrCode := d, wrPersist := if persist then 1#1 else 0#1 }
        tx := [(0, b0), (1, b1), (2, b2)] } ∧
    b0 = (if persist then 0x60#8 else 0x40#8) ||| (p.setWidth 8 <<< 1) ∧
    be16 b1 b2 = (d &&& 0x0FFF#16) <<< 4

/-- R70: `set_voltage` on every code and state. Persisting, TX is `[0x60, c[11:4], c[3:0] ++ 0000]` and `sv_len` is 3; else TX
is `[0000 ++ c[11:8], c[7:0]]`, `sv_len` is 2 and `sv_b2` is `SV_PAD`; nothing else changes but the group's ports. (That every
input port outside the group keeps its level is the model's choice, notes/assumptions/22.md; `sv_len` and `sv_b2` are the spec's
decision D6, notes/assumptions/12.md, and the level of `sv_persist` its D8, notes/assumptions/20.md.) -/
def Obligations.SetVoltageResult : Prop :=
  ∀ (d : Word16) (s : State),
    let c : Code := (d &&& 0x0FFF#16).setWidth 12
    (∃ t, exec (.setVoltagePersist d) s = .next t ∧
      t = { s with
        inp := { s.inp with svCode := d, svPersist := 1#1 }
        tx := [(0, 0x60#8), (1, c.extractLsb' 4 8), (2, c.extractLsb' 0 4 ++ 0b0000#4)] } ∧
      t.outputs.svLen = 3#2 ∧ t.outputs.svB0 = 0x60#8 ∧ t.outputs.svB1 = c.extractLsb' 4 8 ∧
      t.outputs.svB2 = c.extractLsb' 0 4 ++ 0b0000#4) ∧
    (∃ t, exec (.setVoltageFast d) s = .next t ∧
      t = { s with
        inp := { s.inp with svCode := d, svPersist := 0#1 }
        tx := [(0, 0b0000#4 ++ c.extractLsb' 8 4), (1, c.extractLsb' 0 8)] } ∧
      t.outputs.svLen = 2#2 ∧ t.outputs.svB0 = 0b0000#4 ++ c.extractLsb' 8 4 ∧ t.outputs.svB1 = c.extractLsb' 0 8 ∧
      t.outputs.svB2 = 0x00#8)

/-- R71: bits 15-12 of a code operand change no frame: each of the five emitted rows gives the same TX for `d` and for
`d & 0xFFF`. -/
def Obligations.MaskingLaw : Prop :=
  ∀ (m : PowerDownMode) (d : Word16) (s : State) (op : Word16 → Instr),
    op ∈ [Instr.fastWrite m, Instr.writeReg m, Instr.writeEeprom m, Instr.setVoltageFast, Instr.setVoltagePersist] →
    ∃ t t', exec (op d) s = .next t ∧ exec (op (d &&& 0xFFF#16)) s = .next t' ∧ t.tx = t'.tx

/-- R74, R29: the frame lengths are 2, 3, 3, 2, 3, whatever the operands: every byte index below the length holds a byte, and none
from the length on. -/
def Obligations.LengthLaw : Prop :=
  ∀ (m : PowerDownMode) (d : Word16) (s : State) (i : Instr) (n : Nat),
    (i, n) ∈ [(Instr.fastWrite m d, 2), (Instr.writeReg m d, 3), (Instr.writeEeprom m d, 3), (Instr.setVoltageFast d, 2),
      (Instr.setVoltagePersist d, 3)] →
    ∃ t, exec i s = .next t ∧ ∀ a, (t.tx.read a).isSome = decide (a < n)

/-- R75: the fields of a fast-write frame read back: byte 0 bits 7-6 are `00`, bits 5-4 the mode's code, and bits 3-0 with byte 1
are the masked operand. -/
def Obligations.FastWriteReadBack : Prop :=
  ∀ (m : PowerDownMode) (d : Word16) (s : State),
    ∃ t b0 b1, exec (.fastWrite m d) s = .next t ∧ t.tx.bytes = [b0, b1] ∧
      b0.extractLsb' 6 2 = 0b00#2 ∧ b0.extractLsb' 4 2 = pdEncode m ∧
      (b0.extractLsb' 0 4 ++ b1).setWidth 16 = d &&& 0xFFF#16

/-- R76: the fields of a full-write frame read back: the selector, the mode's code, the zero bits, and bytes 1-2 shifted right by 4
are the masked operand. -/
def Obligations.FullWriteReadBack : Prop :=
  ∀ (m : PowerDownMode) (d : Word16) (persist : Bool) (s : State),
    ∃ t b0 b1 b2, exec (if persist then .writeEeprom m d else .writeReg m d) s = .next t ∧ t.tx.bytes = [b0, b1, b2] ∧
      b0.extractLsb' 5 3 = (if persist then 0b011#3 else 0b010#3) ∧ b0.extractLsb' 1 2 = pdEncode m ∧
      be16 b1 b2 >>> 4 = d &&& 0xFFF#16 ∧
      b0.extractLsb' 3 2 = 0#2 ∧ b0.extractLsb' 0 1 = 0#1 ∧ b2.extractLsb' 0 4 = 0#4

/-- R77, R62: `set_voltage` emits, byte for byte, the frame of `fast_write(Normal, d)` or of `write(Normal, d, true)`; and on the
ports, when the other group carries Normal and the same code, the `sv_*` outputs are that group's. -/
def Obligations.DelegationLaw : Prop :=
  (∀ (d : Word16) (s : State), ∃ tv tf,
    exec (.setVoltageFast d) s = .next tv ∧ exec (.fastWrite .normal d) s = .next tf ∧ tv.tx = tf.tx) ∧
  (∀ (d : Word16) (s : State), ∃ tv tw,
    exec (.setVoltagePersist d) s = .next tv ∧ exec (.writeEeprom .normal d) s = .next tw ∧ tv.tx = tw.tx) ∧
  (∀ p : Inputs, p.svPersist = 0#1 → p.fwMode = 0b00#2 → p.fwCode = p.svCode →
    (blockOutputs p).svLen = 2#2 ∧ (blockOutputs p).svB0 = (blockOutputs p).fwB0 ∧
    (blockOutputs p).svB1 = (blockOutputs p).fwB1) ∧
  (∀ p : Inputs, p.svPersist = 1#1 → p.wrMode = 0b00#2 → p.wrPersist = 1#1 → p.wrCode = p.svCode →
    (blockOutputs p).svLen = 3#2 ∧ (blockOutputs p).svB0 = (blockOutputs p).wrB0 ∧
    (blockOutputs p).svB1 = (blockOutputs p).wrB1 ∧ (blockOutputs p).svB2 = (blockOutputs p).wrB2)

/-- R55: the constant-zero positions of a full-write frame are 0 whatever the levels on the input ports, also for the persisting
`set_voltage`, and the fast-write frame's selector bits are 0. -/
def Obligations.ConstantZeroBits : Prop :=
  ∀ p : Inputs,
    writeZeroBits (blockOutputs p).wrB0 (blockOutputs p).wrB2 = true ∧
    ((blockOutputs p).svLen = 3#2 → writeZeroBits (blockOutputs p).svB0 (blockOutputs p).svB2 = true) ∧
    (blockOutputs p).fwB0.extractLsb' 6 2 = 0b00#2

/-- R54, R58, R59, R62: the selector of each operation, whatever the operands; byte 0 bit 7 is never 1, bits 7-6 tell the frame's
length, and `set_voltage` never emits the selector `010` nor a mode other than Normal. -/
def Obligations.EmittedSelectors : Prop :=
  ∀ (s : State) (m : PowerDownMode) (d : Word16) (i : Instr) (sel : List Bool) (n : Nat),
    (i, sel, n) ∈
      [(Instr.fastWrite m d, [false, false], 2), (Instr.writeReg m d, [false, true, false], 3),
       (Instr.writeEeprom m d, [false, true, true], 3), (Instr.setVoltageFast d, [false, false, false, false], 2),
       (Instr.setVoltagePersist d, [false, true, true, false, false, false, false, false], 3)] →
    ∃ t b0 rest, exec i s = .next t ∧ t.tx.bytes = b0 :: rest ∧ t.tx.bytes.length = n ∧
      (List.range sel.length).map (fun k => b0.getLsbD (7 - k)) = sel

/-- The frame an operation emits is the encoding of the instruction in its row of the table: what the unit computes by
concatenation is what the table lays out field by field. -/
def Obligations.EmittedFrameIsTheEncoding : Prop :=
  ∀ (i : Instr) (s : State),
    i.row ∈ [Row.fastWrite, Row.writeReg, Row.writeEeprom, Row.setVoltageFast, Row.setVoltagePersist] →
    ∃ t, exec i s = .next t ∧ t.tx.bytes = encode i

/-- The frame of the emitted rows: an encoder operation changes TX and the input ports of its own group; no other port, no
decoded view, no codec result, nothing of the orchestrator or the transport. TX reads as the frame below its length and as no
byte from there on (a frame is made anew each time, R25). (That the other groups', the reply and the codec ports keep their
levels is the model's choice, notes/assumptions/22.md, which R16 leaves open; that TX is fresh is notes/assumptions/10.md.) -/
def Obligations.EncoderFrame : Prop :=
  ∀ (m : PowerDownMode) (d : Word16) (i : Instr) (s t : State),
    i ∈ [Instr.fastWrite m d, Instr.writeReg m d, Instr.writeEeprom m d, Instr.setVoltageFast d, Instr.setVoltagePersist d] →
    exec i s = .next t →
    s.SameHost t ∧ s.SameViews t ∧ s.SameCodec t ∧ t.inp.rx = s.inp.rx ∧ s.inp.SameCodecPorts t.inp ∧
    (i.row ≠ .fastWrite → t.inp.fwMode = s.inp.fwMode ∧ t.inp.fwCode = s.inp.fwCode) ∧
    (i.row ≠ .writeReg → i.row ≠ .writeEeprom →
      t.inp.wrMode = s.inp.wrMode ∧ t.inp.wrCode = s.inp.wrCode ∧ t.inp.wrPersist = s.inp.wrPersist) ∧
    (i.row ≠ .setVoltageFast → i.row ≠ .setVoltagePersist →
      t.inp.svCode = s.inp.svCode ∧ t.inp.svPersist = s.inp.svPersist) ∧
    (∀ a, t.tx.read a = (encode i)[a]?)

/-! ### The Status Decoder -/

/-- R79: `decode_register` on any three bytes and any state: the five fields, the code being both `RX[1] ++ RX[2]`
(`MemRead(1,2)` of the reply buffer) shifted right by 4 and `RX[1] ++ RX[2][7:4]`; nothing else changes but the three reply
ports. (That `rx_b3` and `rx_b4` keep their levels is the model's choice, notes/assumptions/23.md, and that all other ports do,
notes/assumptions/22.md.) -/
def Obligations.DecodeRegisterResult : Prop :=
  ∀ (b0 b1 b2 : Byte) (s : State),
    let view : RegisterStatus :=
      { raw := b0, ready := b0.getLsbD 7, por := b0.getLsbD 6, mode := pdDecode (b0.extractLsb' 1 2),
        code := b1 ++ b2.extractLsb' 4 4 }
    exec (.regStatus b0 b1 b2) s =
      .next { s with inp := { s.inp with rxB0 := b0, rxB1 := b1, rxB2 := b2 }, reg := some view } ∧
    view.code.setWidth 16 = be16 b1 b2 >>> 4 ∧
    ({ s.inp with rxB0 := b0, rxB1 := b1, rxB2 := b2 } : Inputs).rxRead16 1 = some (be16 b1 b2)

/-- R80: `decode_eeprom` on any two bytes and any state: the mode at bits 6-5, the code being both `RX[3] ++ RX[4]`
(`MemRead(3,2)`) masked to 12 bits and `RX[3][3:0] ++ RX[4]`; nothing else changes but the two reply ports. (That `rx_b0` to
`rx_b2` keep their levels is the model's choice, notes/assumptions/23.md, and that all other ports do, notes/assumptions/22.md.)
-/
def Obligations.DecodeEepromResult : Prop :=
  ∀ (b3 b4 : Byte) (s : State),
    let view : EepromStatus := { mode := pdDecode (b3.extractLsb' 5 2), code := b3.extractLsb' 0 4 ++ b4 }
    exec (.eepromStatus b3 b4) s =
      .next { s with inp := { s.inp with rxB3 := b3, rxB4 := b4 }, ee := some view } ∧
    view.code.setWidth 16 = be16 b3 b4 &&& 0x0FFF#16 ∧
    ({ s.inp with rxB3 := b3, rxB4 := b4 } : Inputs).rxRead16 3 = some (be16 b3 b4)

/-- R81: `decode_reply` is the pair of the two views, on any five bytes and any state, and nothing else changes but the five
reply ports; the two views are independent: it is `decode_register` on the first three bytes and then `decode_eeprom` on the
last two, and just as well the other way round. (That all other ports keep their levels is the model's choice,
notes/assumptions/22.md, and so are the reply ports that one view run alone leaves, notes/assumptions/23.md.) -/
def Obligations.DecodeReplyResult : Prop :=
  ∀ (b0 b1 b2 b3 b4 : Byte) (s : State),
    let t : State := { s with
      inp := { s.inp with rxB0 := b0, rxB1 := b1, rxB2 := b2, rxB3 := b3, rxB4 := b4 }
      reg := some (decodeRegister b0 b1 b2), ee := some (decodeEeprom b3 b4) }
    exec (.readReply b0 b1 b2 b3 b4) s = .next t ∧
    (∃ u, exec (.regStatus b0 b1 b2) s = .next u ∧ exec (.eepromStatus b3 b4) u = .next t) ∧
    (∃ u, exec (.eepromStatus b3 b4) s = .next u ∧ exec (.regStatus b0 b1 b2) u = .next t)

/-- R83: the register view's code is the pair of bytes shifted, the EEPROM view's the pair masked, and the modes stand at different
bits; the two extractions are different functions of two bytes, and agree exactly when the pair's three high nibbles are its three
low nibbles. -/
def Obligations.ExtractionsStayAsymmetric : Prop :=
  (∀ b0 b1 b2 b3 b4 : Byte,
    let views := decodeReply #v[b0, b1, b2, b3, b4]
    views.1.code.setWidth 16 = be16 b1 b2 >>> 4 ∧ views.2.code.setWidth 16 = be16 b3 b4 &&& 0x0FFF#16 ∧
    views.1.mode = pdDecode (b0.extractLsb' 1 2) ∧ views.2.mode = pdDecode (b3.extractLsb' 5 2)) ∧
  registerCode 0xAB#8 0xCD#8 = 0xABC#12 ∧ eepromCode 0xAB#8 0xCD#8 = 0xBCD#12 ∧
  (∀ b b' : Byte, registerCode b b' = eepromCode b b' ↔
    b.extractLsb' 4 4 = b.extractLsb' 0 4 ∧ b.extractLsb' 0 4 = b'.extractLsb' 4 4 ∧
    b'.extractLsb' 4 4 = b'.extractLsb' 0 4)

/-- R84, R56: two replies that differ only in the ignored bits decode to the same flags, modes and codes; the raw bytes differ only
in the ignored bits of byte 0. -/
def Obligations.IgnoredReplyBits : Prop :=
  ∀ (b0 b1 b2 b3 b4 b0' b2' b3' : Byte) (s s' : State),
    b0 &&& 0b11000110#8 = b0' &&& 0b11000110#8 → b2 &&& 0xF0#8 = b2' &&& 0xF0#8 →
    b3 &&& 0b01101111#8 = b3' &&& 0b01101111#8 →
    ∃ t t' r r' e, exec (.readReply b0 b1 b2 b3 b4) s = .next t ∧ exec (.readReply b0' b1 b2' b3' b4) s' = .next t' ∧
      t.reg = some r ∧ t'.reg = some r' ∧ t.ee = some e ∧ t'.ee = some e ∧
      r.ready = r'.ready ∧ r.por = r'.por ∧ r.mode = r'.mode ∧ r.code = r'.code ∧
      (r.raw ^^^ r'.raw) &&& 0b11000110#8 = 0#8

/-- R85: the raw byte passes through unchanged in every RegisterStatus the decoder produces, so the flags and the mode are redundant
with it; the code is not. -/
def Obligations.RawPassThrough : Prop :=
  (∀ (b0 b1 b2 b3 b4 : Byte) (s : State) (i : Instr), i ∈ [Instr.regStatus b0 b1 b2, Instr.readReply b0 b1 b2 b3 b4] →
    ∃ t r, exec i s = .next t ∧ t.reg = some r ∧ r.raw = b0 ∧ t.outputs.regRaw = b0 ∧
      r.ready = r.raw.getLsbD 7 ∧ r.por = r.raw.getLsbD 6 ∧ pdEncode r.mode = r.raw.extractLsb' 1 2) ∧
  (∀ b0 : Byte, ∃ b1 b2 b1' b2' : Byte, (decodeRegister b0 b1 b2).raw = (decodeRegister b0 b1' b2').raw ∧
    (decodeRegister b0 b1 b2).code ≠ (decodeRegister b0 b1' b2').code)

/-- R86: a reply that embeds the mode and the masked code of `(m, d)` in the register layout decodes to `m` and `d & 0xFFF`,
whatever its other bits; so does one that embeds them in the EEPROM layout. -/
def Obligations.RoundTripLaw : Prop :=
  ∀ (m : PowerDownMode) (d : Word16) (s : State),
    let c : Code := (d &&& 0xFFF#16).setWidth 12
    (∀ b0 b1 b2 : Byte, b0.extractLsb' 1 2 = pdEncode m → b1 = c.extractLsb' 4 8 → b2.extractLsb' 4 4 = c.extractLsb' 0 4 →
      ∃ t r, exec (.regStatus b0 b1 b2) s = .next t ∧ t.reg = some r ∧ r.mode = m ∧ r.code = c) ∧
    (∀ b3 b4 : Byte, b3.extractLsb' 5 2 = pdEncode m → b3.extractLsb' 0 4 = c.extractLsb' 8 4 → b4 = c.extractLsb' 0 8 →
      ∃ t e, exec (.eepromStatus b3 b4) s = .next t ∧ t.ee = some e ∧ e.mode = m ∧ e.code = c)

/-- R87: the three bytes a full write emits, fed to `decode_register`, give back the mode and the masked code, `ready` false,
`por` true and the frame's byte 0 as `raw`. -/
def Obligations.FullWriteFrameIsARegisterImage : Prop :=
  ∀ (m : PowerDownMode) (d : Word16) (persist : Bool) (s : State), ∃ t b0 b1 b2 u,
    exec (if persist then .writeEeprom m d else .writeReg m d) s = .next t ∧ t.tx.bytes = [b0, b1, b2] ∧
    exec (.regStatus b0 b1 b2) t = .next u ∧
    u.reg = some { raw := b0, ready := false, por := true, mode := m, code := (d &&& 0xFFF#16).setWidth 12 }

/-- R88: the two bytes a fast write emits, fed to `decode_eeprom`, give back the masked code, but the mode `pd_decode(0 ++ p[1])`:
Normal for Normal and OneK, OneK for OneHundredK and FiveHundredK; the image `[(p << 5) | c[11:8], c[7:0]]` gives both back. -/
def Obligations.FastWriteFrameIsNoEepromImage : Prop :=
  ∀ (m : PowerDownMode) (d : Word16) (s : State),
    let c : Code := (d &&& 0xFFF#16).setWidth 12
    let p : ModeBits := pdEncode m
    (∃ t b0 b1 u, exec (.fastWrite m d) s = .next t ∧ t.tx.bytes = [b0, b1] ∧ exec (.eepromStatus b0 b1) t = .next u ∧
      u.ee = some { mode := pdDecode (0b0#1 ++ p.extractLsb' 1 1), code := c } ∧
      pdDecode (0b0#1 ++ p.extractLsb' 1 1) =
        match m with
        | .normal => .normal
        | .oneK => .normal
        | .oneHundredK => .oneK
        | .fiveHundredK => .oneK) ∧
    (∃ u, exec (.eepromStatus ((p.setWidth 8 <<< 5) ||| (c.extractLsb' 8 4).setWidth 8) (c.extractLsb' 0 8)) s = .next u ∧
      u.ee = some { mode := m, code := c })

/-- The frame of the consumed rows: a decoder operation changes its own view and its own reply ports; not TX, not the other
view, no encoder or codec port, nothing of the orchestrator or the transport. (That the reply ports of the other view keep their
levels is the model's choice, notes/assumptions/23.md, and that the encoder's and the codec's ports do,
notes/assumptions/22.md.) -/
def Obligations.DecoderFrame : Prop :=
  ∀ (b0 b1 b2 b3 b4 : Byte) (s t : State),
    (exec (.regStatus b0 b1 b2) s = .next t →
      s.SameHost t ∧ s.SameCodec t ∧ s.inp.SameEncoderPorts t.inp ∧ s.inp.SameCodecPorts t.inp ∧
      (∀ a, t.tx.read a = s.tx.read a) ∧ t.ee = s.ee ∧ t.inp.rxB3 = s.inp.rxB3 ∧ t.inp.rxB4 = s.inp.rxB4) ∧
    (exec (.eepromStatus b3 b4) s = .next t →
      s.SameHost t ∧ s.SameCodec t ∧ s.inp.SameEncoderPorts t.inp ∧ s.inp.SameCodecPorts t.inp ∧
      (∀ a, t.tx.read a = s.tx.read a) ∧ t.reg = s.reg ∧ t.inp.rxB0 = s.inp.rxB0 ∧ t.inp.rxB1 = s.inp.rxB1 ∧
      t.inp.rxB2 = s.inp.rxB2) ∧
    (exec (.readReply b0 b1 b2 b3 b4) s = .next t →
      s.SameHost t ∧ s.SameCodec t ∧ s.inp.SameEncoderPorts t.inp ∧ s.inp.SameCodecPorts t.inp ∧
      (∀ a, t.tx.read a = s.tx.read a))

/-- The frame of the PD rows: a codec operation changes its own ports and its own results; not TX, no view, no other port,
nothing of the orchestrator or the transport; `pd_encode` leaves the last `pd_decode` and the other way round. (That the
encoder's, the reply and the other codec ports keep their levels is the model's choice, notes/assumptions/22.md; that a
variant's row runs both directions is notes/assumptions/6.md.) -/
def Obligations.CodecFrame : Prop :=
  ∀ (m : PowerDownMode) (b : ModeBits) (i : Instr) (s t : State),
    i ∈ [Instr.pdNormal, .pdOneK, .pdOneHundredK, .pdFiveHundredK, .pdEncode m, .pdDecode b] → exec i s = .next t →
    s.SameHost t ∧ s.SameViews t ∧ s.inp.SameEncoderPorts t.inp ∧ t.inp.rx = s.inp.rx ∧
    (∀ a, t.tx.read a = s.tx.read a) ∧
    (i = .pdEncode m → t.pdMode = s.pdMode ∧ t.inp.pddBits = s.inp.pddBits) ∧
    (i = .pdDecode b → t.pdBits = s.pdBits ∧ t.inp.pdeMode = s.inp.pdeMode)

/-! ### All operations -/

/-- R72, R82, R100: every operation, on every operand and in every state, has a result: no instruction is refused, none faults. -/
def Obligations.EveryOperationCompletes : Prop :=
  ∀ (i : Instr) (s : State), ∃ t, exec i s = .next t

/-- R73, R89, and for the codec R13, R64, R65: an operation's result depends on its operands only: from any two states, the frame, the
views and the codec results it takes are equal. (That a variant's row takes both codec results is the model's choice,
notes/assumptions/6.md.) -/
def Obligations.OperationsArePure : Prop :=
  ∀ (i : Instr) (s s' t t' : State), exec i s = .next t → exec i s' = .next t' →
    (i.row ∈ [Row.fastWrite, .writeReg, .writeEeprom, .setVoltageFast, .setVoltagePersist] → t.tx = t'.tx) ∧
    (i.row ∈ [Row.readReply, .regStatus] → t.reg = t'.reg) ∧
    (i.row ∈ [Row.readReply, .eepromStatus] → t.ee = t'.ee) ∧
    (i.row ∈ [Row.pdNormal, .pdOneK, .pdOneHundredK, .pdFiveHundredK, .pdEncode] → t.pdBits = t'.pdBits) ∧
    (i.row ∈ [Row.pdNormal, .pdOneK, .pdOneHundredK, .pdFiveHundredK, .pdDecode] → t.pdMode = t'.pdMode)

/-- R37: evaluating an operation a second time on the same operands changes nothing. -/
def Obligations.RepeatingAnOperationChangesNothing : Prop :=
  ∀ (i : Instr) (s t : State), exec i s = .next t → exec i t = .next t

/-! ### The orchestrator and the transport -/

/-- R91, R116: construction takes a handle and an address and makes the orchestrator of them; no bus transaction, and nothing
else changes. While one orchestrator is alive a second construction is refused (the model's choice, notes/assumptions/8.md).
(That the ports and the host's copy of a frame stay as they are is the model's choice, notes/assumptions/22.md and 21.md.) -/
def Obligations.ConstructionTakesHandleAndAddress : Prop :=
  ∀ (s : State) (bus : BusHandle) (addr7 : Addr7) (rest : List Request),
    s.inflight = none → s.agenda = .construct bus addr7 :: rest →
    (s.driver = none →
      step s = .next { s with agenda := rest, driver := some { bus := bus, addr7 := addr7 } }) ∧
    (s.driver ≠ none → step s = .refused .driverHeld)

/-- R92: `read` issues one read of the orchestrator's address and suspends; nothing is sent before it, and nothing else changes.
(That the ports and the host's copy of an earlier frame stay as they are is the model's choice, notes/assumptions/22.md and
21.md.) -/
def Obligations.HostReadIssuesOneRead : Prop :=
  ∀ (s : State) (d : Driver) (rest : List Request),
    s.inflight = none → s.driver = some d → s.agenda = .host .read :: rest →
    step s = .next { s with
      agenda := rest, calls := s.calls ++ [.read d.addr7], inflight := some (.read d.addr7) }

/-- R92: when the transport has filled the five bytes, `read` at its turn returns the decoded pair of exactly those bytes, and
the host holds both views. (What gives it its turn is the model's choice, notes/assumptions/16.md.) (That the encoder's and the
codec's ports keep their levels is the model's choice, notes/assumptions/22.md, and that the host's copy of an earlier frame
stays, notes/assumptions/21.md.) -/
def Obligations.HostReadReturnsTheDecodedPair : Prop :=
  ∀ (s : State) (a : Addr7) (b0 b1 b2 b3 b4 : Byte) (rest : List ReadAnswer),
    s.inflight = some (.read a) → turnAt s.agenda = true → s.readAnswers = .filled b0 b1 b2 b3 b4 :: rest →
    step s = .next { s with
      agenda := afterTurn s.agenda
      readAnswers := rest
      inp := { s.inp with rxB0 := b0, rxB1 := b1, rxB2 := b2, rxB3 := b3, rxB4 := b4 }
      reg := some (decodeRegister b0 b1 b2), ee := some (decodeEeprom b3 b4)
      results := s.results ++ [.status (decodeRegister b0 b1 b2) (decodeEeprom b3 b4)]
      inflight := none }

/-- R93, R94, R95: a host write operation hands exactly the frame its block operation emits, in index order, to one write of the
orchestrator's address, and suspends. -/
def Obligations.HostWritesHandTheFrameOver : Prop :=
  ∀ (s : State) (dr : Driver) (rest : List Request) (m : PowerDownMode) (d : Word16) (op : HostOp) (i : Instr),
    (op, i) ∈ [(HostOp.fastWrite m d, Instr.fastWrite m d), (HostOp.write m d false, Instr.writeReg m d),
      (HostOp.write m d true, Instr.writeEeprom m d), (HostOp.setVoltage d false, Instr.setVoltageFast d),
      (HostOp.setVoltage d true, Instr.setVoltagePersist d)] →
    s.inflight = none → s.driver = some dr → s.agenda = .host op :: rest →
    ∃ t, exec i { s with agenda := rest } = .next t ∧ t.tx.bytes = encode i ∧
      step s = .next { t with
        calls := s.calls ++ [.write dr.addr7 (encode i)], inflight := some (.write dr.addr7 (encode i)) }

/-- R101, R105, R106: a transport failure is the operation's result, the same error value; the decoder is not run, no state of
the block's ports, no frame and no view changes, nothing is retried. (What gives the operation its turn:
notes/assumptions/16.md.) (That TX is kept past the end of its transaction is the model's choice, notes/assumptions/21.md, and
that the ports keep their levels, notes/assumptions/22.md.) -/
def Obligations.TransportFailureIsPassedThrough : Prop :=
  (∀ (s : State) (a : Addr7) (e : TransportError) (rest : List ReadAnswer),
    s.inflight = some (.read a) → turnAt s.agenda = true → s.readAnswers = .failure e :: rest →
    step s = .next { s with
      agenda := afterTurn s.agenda, readAnswers := rest, results := s.results ++ [.err e], inflight := none }) ∧
  (∀ (s : State) (a : Addr7) (bytes : List Byte) (e : TransportError) (rest : List WriteAnswer),
    s.inflight = some (.write a bytes) → turnAt s.agenda = true → s.writeAnswers = .failure e :: rest →
    step s = .next { s with
      agenda := afterTurn s.agenda, writeAnswers := rest, results := s.results ++ [.err e], inflight := none })

/-- R93 to R95: a write the transport accepts ends at its turn with success and changes nothing else. (What gives it its turn:
notes/assumptions/16.md.) (That TX is kept past the end of its transaction is the model's choice, notes/assumptions/21.md, and
that the ports keep their levels, notes/assumptions/22.md.) -/
def Obligations.HostWriteReturnsSuccess : Prop :=
  ∀ (s : State) (a : Addr7) (bytes : List Byte) (rest : List WriteAnswer),
    s.inflight = some (.write a bytes) → turnAt s.agenda = true → s.writeAnswers = .success :: rest →
    step s = .next { s with
      agenda := afterTurn s.agenda, writeAnswers := rest, results := s.results ++ [.success], inflight := none }

/-- R96, R116: `destroy` gives the handle back, ends the orchestrator, issues no transaction and changes nothing else; with no
orchestrator, after it or before a construction, every host operation is refused. (That the refusal covers a further `destroy`
and the time before a construction is read from R96 and R116, notes/assumptions/13.md.) (That the ports and the host's copy of
an earlier frame stay as they are is the model's choice, notes/assumptions/22.md and 21.md.) -/
def Obligations.DestroyEndsTheOrchestrator : Prop :=
  (∀ (s : State) (d : Driver) (rest : List Request),
    s.inflight = none → s.driver = some d → s.agenda = .host .destroy :: rest →
    step s = .next { s with agenda := rest, results := s.results ++ [.handle d.bus], driver := none }) ∧
  (∀ (s : State) (op : HostOp) (rest : List Request),
    s.inflight = none → s.driver = none → s.agenda = .host op :: rest → step s = .refused .noDriver)

/-- R122, R119: a host operation whose transport has not answered stays suspended at its turn, and no other operation of the
orchestrator starts. (What gives it its turn: notes/assumptions/16.md.) (That the ports and the host's copy of a frame stay as
they are is the model's choice, notes/assumptions/22.md and 21.md.) -/
def Obligations.SuspendedUntilTheTransportAnswers : Prop :=
  (∀ (s : State) (a : Addr7), s.inflight = some (.read a) → turnAt s.agenda = true → s.readAnswers = [] →
    step s = .next { s with agenda := afterTurn s.agenda }) ∧
  (∀ (s : State) (a : Addr7) (bytes : List Byte),
    s.inflight = some (.write a bytes) → turnAt s.agenda = true → s.writeAnswers = [] →
    step s = .next { s with agenda := afterTurn s.agenda })

/-- R40, R119: the block may be evaluated before or after a suspended operation has its turn: either order takes the same
answers, makes the same calls, returns the same results, leaves the same transaction in flight, and takes the same frame and
codec results. (`yield`, which says where the turn lies, is the model's: notes/assumptions/16.md.) (That the encoder's and the
codec's ports and TX come through the turn unchanged is the model's choice, notes/assumptions/22.md and 21.md.) -/
def Obligations.EvaluationsCommuteWithTheTransaction : Prop :=
  ∀ (s : State) (i : Instr) (rest : List Request), ∃ u u' t t',
    step { s with agenda := .invoke i :: .yield :: rest } = .next u ∧ step u = .next t ∧
    step { s with agenda := .yield :: .invoke i :: rest } = .next u' ∧ step u' = .next t' ∧
    u.inflight = s.inflight ∧ t.SameHost t' ∧ t.tx = t'.tx ∧ t.SameCodec t' ∧
    t.inp.SameEncoderPorts t'.inp ∧ t.inp.SameCodecPorts t'.inp

/-- R97, R122: an operation that uses the bus issues exactly one transaction, a read or a write, and suspends at it; when the
transport's answer is at hand, its turn resumes it, issues nothing more and returns exactly one result. (What gives it its turn is
the model's choice, notes/assumptions/16.md.) -/
def Obligations.HostOperationTakesOneTransaction : Prop :=
  ∀ (s : State) (d : Driver) (op : HostOp) (rest : List Request),
    s.inflight = none → s.driver = some d → s.agenda = .host op :: rest → op ≠ .destroy →
    turnAt rest = true → (op = .read → s.readAnswers ≠ []) → (op ≠ .read → s.writeAnswers ≠ []) →
    ∃ u c t r, step s = .next u ∧ u.agenda = rest ∧ u.inflight = some c ∧ u.calls = s.calls ++ [c] ∧ u.results = s.results ∧
      (op = .read → c = .read d.addr7) ∧ (op ≠ .read → ∃ bytes, c = .write d.addr7 bytes) ∧
      step u = .next t ∧ t.inflight = none ∧ t.calls = u.calls ∧ t.results = s.results ++ [r] ∧
      r.endsTransaction = true ∧ t.agenda = afterTurn rest ∧ t.driver = some d

/-- R97: that every transport call belongs to one result, but for the one in flight, is kept by every step. -/
def Obligations.CallsMatchResultsKept : Prop :=
  State.reset.CallsMatchResults ∧ ∀ s t : State, s.CallsMatchResults → step s = .next t → t.CallsMatchResults

/-- The invariant holds at reset. -/
def Obligations.ResetMeetsInvariant : Prop := State.reset.Inv

/-- Headline: every step keeps the invariant: TX canonical and an emittable frame, the register view agreeing with its raw byte,
only emittable frames on the bus, and a transaction in flight only the live orchestrator's. -/
def Obligations.StepKeepsInvariant : Prop :=
  ∀ s t : State, s.Inv → step s = .next t → t.Inv

/-- R101: the transport's error values are opaque: renaming them commutes with every step. -/
def Obligations.ErrorValuesAreOpaque : Prop :=
  ∀ (f : TransportError → TransportError) (s : State),
    (∀ t, step s = .next t → step (s.mapErr f) = .next (t.mapErr f)) ∧
    (∀ r, step s = .refused r → step (s.mapErr f) = .refused r)

/-- R26, R39, R73: the device address reaches no byte the block emits: two orchestrators that differ only in it run the same host
operation to states that differ only in the address the call names. -/
def Obligations.AddressIsNotInTheFrame : Prop :=
  ∀ (s : State) (bus : BusHandle) (a a' : Addr7) (op : HostOp) (rest : List Request),
    s.inflight = none → s.agenda = .host op :: rest →
    ∃ t t', step { s with driver := some { bus := bus, addr7 := a } } = .next t ∧
      step { s with driver := some { bus := bus, addr7 := a' } } = .next t' ∧
      t'.inp = t.inp ∧ t'.tx = t.tx ∧ t'.reg = t.reg ∧ t'.ee = t.ee ∧ t'.results = t.results ∧
      (∀ bytes, t.inflight = some (.write a bytes) → t'.inflight = some (.write a' bytes)) ∧
      (t.inflight = some (.read a) → t'.inflight = some (.read a'))

/-- Headline, R96, R100, R116: whatever the operands, the replies and the errors, a step from a state whose requests can be served in
their turn (images are words of their rows; host operations stand between a construction and its `destroy`) answers a state of the
same kind; so a run from such a state never stops. (What it excludes is the refusals of notes/assumptions/8.md and 13.md.) -/
def Obligations.ServableStatesStepOn : Prop :=
  ∀ s : State, servableAll s.driver.isSome s.agenda = true →
    ∃ t, step s = .next t ∧ servableAll t.driver.isSome t.agenda = true
end

