-- ==== Sys2Proof/Laws/Bits.lean ====
section
/-! SUPPORT. Bit by bit, what every assembled word and every extracted field holds (spec/30_encoding.md section 2). Proofs about
frames rewrite with these and never unfold a concatenation. -/

namespace Sys2Proof.Machine

/-- Bits of a concatenation, at a width written as one number. -/
theorem getLsbD_append_at {m n w : Nat} (x : BitVec m) (y : BitVec n) (i : Nat) (h : w = m + n) :
    ((x ++ y).cast h.symm).getLsbD i = if i < n then y.getLsbD i else x.getLsbD (i - n) := by
  rw [BitVec.getLsbD_cast, BitVec.getLsbD_append]

theorem be16_getLsbD (hi lo : Byte) (i : Nat) :
    (be16 hi lo).getLsbD i = if i < 8 then lo.getLsbD i else hi.getLsbD (i - 8) :=
  getLsbD_append_at hi lo i rfl

theorem hiByte_getLsbD (v : Word16) (i : Nat) : (hiByte v).getLsbD i = (decide (i < 8) && v.getLsbD (8 + i)) := by
  simp [hiByte]

theorem loByte_getLsbD (v : Word16) (i : Nat) : (loByte v).getLsbD i = (decide (i < 8) && v.getLsbD i) := by
  simp [loByte]

theorem wrValue_getLsbD (c : Code) (i : Nat) :
    (wrValue c).getLsbD i = (decide (4 ≤ i) && c.getLsbD (i - 4)) := by
  refine (getLsbD_append_at c 0#4 i rfl).trans ?_
  by_cases h : i < 4 <;> simp [h]
  all_goals omega

theorem fwWord_getLsbD (p : ModeBits) (c : Code) (i : Nat) :
    (fwWord p c).getLsbD i = if i < 12 then c.getLsbD i else p.getLsbD (i - 12) := by
  refine (getLsbD_append_at (Config.selFast ++ p) c i rfl).trans ?_
  split
  · rfl
  · refine (getLsbD_append_at Config.selFast p (i - 12) rfl).trans ?_
    split
    · rfl
    · rw [BitVec.getLsbD_of_ge p _ (by omega)]
      simp [Config.selFast]

theorem maskCode_getLsbD (d : Word16) (i : Nat) : (maskCode d).getLsbD i = (decide (i < 12) && d.getLsbD i) := by
  by_cases h : i < 12
  · interval_cases i <;> simp [maskCode, Config.codeMask]
  · simp [maskCode, h]

theorem wrByte0_getLsbD (sel : BitVec 3) (p : ModeBits) (i : Nat) :
    (wrByte0 sel p).getLsbD i =
      if i < 1 then false else if i < 3 then p.getLsbD (i - 1) else if i < 5 then false else sel.getLsbD (i - 5) := by
  refine (getLsbD_append_at (sel ++ 0b00#2 ++ p) 0b0#1 i rfl).trans ?_
  split
  · simp
  · refine (getLsbD_append_at (sel ++ 0b00#2) p (i - 1) rfl).trans ?_
    split
    · rw [if_pos (by omega)]
    · rw [if_neg (by omega)]
      refine (getLsbD_append_at sel 0b00#2 (i - 1 - 2) rfl).trans ?_
      split
      · rw [if_pos (by omega)]
        simp
      · rw [if_neg (by omega)]
        congr 1

/-- The register view's code, bit by bit: the low nibble of the pair is shifted out (R51). -/
theorem registerCode_getLsbD (b1 b2 : Byte) (i : Nat) :
    (registerCode b1 b2).getLsbD i =
      (decide (i < 12) && if i < 4 then b2.getLsbD (4 + i) else b1.getLsbD (i - 4)) := by
  simp only [registerCode, BitVec.getLsbD_setWidth, BitVec.getLsbD_ushiftRight, be16_getLsbD]
  by_cases h : i < 4
  · rw [if_pos (by omega), if_pos h]
  · rw [if_neg (by omega), if_neg h, show 4 + i - 8 = i - 4 by omega]

/-- The EEPROM view's code, bit by bit: the high nibble of the pair is masked off (R52). -/
theorem eepromCode_getLsbD (b3 b4 : Byte) (i : Nat) :
    (eepromCode b3 b4).getLsbD i = (decide (i < 12) && if i < 8 then b4.getLsbD i else b3.getLsbD (i - 8)) := by
  by_cases h : i < 12
  · simp only [eepromCode, Config.codeMask, BitVec.getLsbD_setWidth, BitVec.getLsbD_and, be16_getLsbD, h]
    interval_cases i <;> simp
  · simp [eepromCode, h]

/-- A one-bit port read as a Boolean is its bit (R11). -/
theorem boolOfBit_eq (b : Bit) : boolOfBit b = b.getLsbD 0 := by revert b; decide

end Sys2Proof.Machine
end

