-- ==== Sys2Proof/Laws/Memory.lean ====
section
/-! SUPPORT. The laws of a byte space: a write keeps the canonical form, reads back, and leaves every other index alone. -/

namespace Sys2Proof.Machine

@[simp] theorem Memory.read_empty (a : Nat) : Memory.empty.read a = none := rfl

@[simp] theorem Memory.wf_empty : Memory.empty.wf = true := rfl

/-- A byte written reads back. -/
theorem Memory.read_write_same (m : Memory) (a : Nat) (v : Byte) : (m.write a v).read a = some v := by
  induction m with
  | nil => simp [Memory.write, Memory.read]
  | cons c rest ih =>
    obtain ⟨b, w⟩ := c
    unfold Memory.write
    split
    · simp [Memory.read]
    · split
      · simp [Memory.read]
      · rename_i h
        simp [Memory.read, h, ih]

/-- A write leaves every other index alone. -/
theorem Memory.read_write_other (m : Memory) (a b : Nat) (v : Byte) (h : b ≠ a) : (m.write a v).read b = m.read b := by
  induction m with
  | nil => simp [Memory.write, Memory.read, h]
  | cons c rest ih =>
    obtain ⟨k, w⟩ := c
    unfold Memory.write
    split
    · simp [Memory.read, h]
    · split
      · rename_i hk
        simp [Memory.read, h, ← hk]
      · by_cases hb : b = k <;> simp [Memory.read, hb, ih]

/-- The canonical form of a longer list, by its head: the head's index is below every other. -/
theorem Memory.wf_cons_iff (c : Host.Cell) (rest : Memory) :
    Memory.wf (c :: rest) = true ↔ (∀ d ∈ rest, c.1 < d.1) ∧ Memory.wf rest = true := by
  induction rest generalizing c with
  | nil => simp [Memory.wf]
  | cons d rest ih =>
    obtain ⟨a, v⟩ := c
    obtain ⟨b, w⟩ := d
    simp only [Memory.wf, Bool.and_eq_true, decide_eq_true_eq, List.forall_mem_cons]
    constructor
    · rintro ⟨hab, hw⟩
      exact ⟨⟨hab, fun d hd => lt_trans hab ((ih (b, w)).1 hw |>.1 d hd)⟩, hw⟩
    · rintro ⟨⟨hab, -⟩, hw⟩
      exact ⟨hab, hw⟩

/-- What a write's cells are: the new one, or old ones. -/
theorem Memory.mem_write (m : Memory) (a : Nat) (v : Byte) (d : Host.Cell) (h : d ∈ m.write a v) : d = (a, v) ∨ d ∈ m := by
  induction m with
  | nil => simpa [Memory.write] using h
  | cons c rest ih =>
    obtain ⟨b, w⟩ := c
    unfold Memory.write at h
    split at h
    · simpa using h
    · split at h
      · simp only [List.mem_cons] at h ⊢
        tauto
      · simp only [List.mem_cons] at h ⊢
        rcases h with h | h
        · exact .inr (.inl h)
        · exact (ih h).imp_right .inr

/-- A write keeps the canonical form. -/
theorem Memory.write_wf (m : Memory) (a : Nat) (v : Byte) (h : m.wf = true) : (m.write a v).wf = true := by
  induction m with
  | nil => rfl
  | cons c rest ih =>
    obtain ⟨b, w⟩ := c
    obtain ⟨hlt, hw⟩ := (Memory.wf_cons_iff _ _).1 h
    unfold Memory.write
    split
    · rename_i hab
      refine (Memory.wf_cons_iff _ _).2 ⟨?_, h⟩
      simp only [List.forall_mem_cons]
      exact ⟨hab, fun d hd => lt_trans hab (hlt d hd)⟩
    · split
      · rename_i hab
        exact (Memory.wf_cons_iff _ _).2 ⟨fun d hd => hab ▸ hlt d hd, hw⟩
      · rename_i h1 h2
        refine (Memory.wf_cons_iff _ _).2 ⟨fun d hd => ?_, ih hw⟩
        rcases Memory.mem_write rest a v d hd with rfl | hd
        · show b < a
          omega
        · exact hlt d hd

/-- A 16-bit write keeps the canonical form. -/
theorem Memory.write16_wf (m : Memory) (i : Nat) (v : Word16) (h : m.wf = true) : (m.write16 i v).wf = true :=
  Memory.write_wf _ _ _ (Memory.write_wf _ _ _ h)

@[simp] theorem be16_hiByte_loByte (v : Word16) : be16 (hiByte v) (loByte v) = v := by
  refine BitVec.eq_of_getLsbD_eq fun i hi => ?_
  rw [be16_getLsbD, hiByte_getLsbD, loByte_getLsbD]
  by_cases h : i < 8
  · simp [h]
  · simp [h, show i - 8 < 8 by omega, show 8 + (i - 8) = i by omega]

@[simp] theorem hiByte_be16 (hi lo : Byte) : hiByte (be16 hi lo) = hi := by
  refine BitVec.eq_of_getLsbD_eq fun i h => ?_
  rw [hiByte_getLsbD, be16_getLsbD]
  simp [h]

@[simp] theorem loByte_be16 (hi lo : Byte) : loByte (be16 hi lo) = lo := by
  refine BitVec.eq_of_getLsbD_eq fun i h => ?_
  rw [loByte_getLsbD, be16_getLsbD]
  simp [h]

/-- A 16-bit write reads back as a 16-bit read (R10, R31). -/
theorem Memory.read16_write16 (m : Memory) (i : Nat) (v : Word16) : (m.write16 i v).read16 i = some v := by
  have hi : (m.write16 i v).read i = some (hiByte v) := by
    rw [Memory.write16, Memory.read_write_other _ _ _ _ (by omega), Memory.read_write_same]
  have lo : (m.write16 i v).read (i + 1) = some (loByte v) := Memory.read_write_same _ _ _
  rw [Memory.read16, hi, lo]
  simp

/-- The reply buffer is in canonical form. -/
theorem Inputs.rxSpace_wf (p : Inputs) : p.rxSpace.wf = true := rfl

end Sys2Proof.Machine
end

