-- ==== Sys2Proof/Laws/State.lean ====
section
/-! SUPPORT. One lemma per field per update of State, so that no proof unfolds a record update. -/

namespace Sys2Proof.Machine

section setInp
variable (s : State) (x : Inputs)
@[simp] theorem State.setInp_inp : (s.setInp x).inp = x := rfl
@[simp] theorem State.setInp_tx : (s.setInp x).tx = s.tx := rfl
@[simp] theorem State.setInp_reg : (s.setInp x).reg = s.reg := rfl
@[simp] theorem State.setInp_ee : (s.setInp x).ee = s.ee := rfl
@[simp] theorem State.setInp_pdBits : (s.setInp x).pdBits = s.pdBits := rfl
@[simp] theorem State.setInp_pdMode : (s.setInp x).pdMode = s.pdMode := rfl
@[simp] theorem State.setInp_driver : (s.setInp x).driver = s.driver := rfl
@[simp] theorem State.setInp_inflight : (s.setInp x).inflight = s.inflight := rfl
@[simp] theorem State.setInp_calls : (s.setInp x).calls = s.calls := rfl
@[simp] theorem State.setInp_results : (s.setInp x).results = s.results := rfl
@[simp] theorem State.setInp_agenda : (s.setInp x).agenda = s.agenda := rfl
@[simp] theorem State.setInp_writeAnswers : (s.setInp x).writeAnswers = s.writeAnswers := rfl
@[simp] theorem State.setInp_readAnswers : (s.setInp x).readAnswers = s.readAnswers := rfl
end setInp

section setTx
variable (s : State) (x : Memory)
@[simp] theorem State.setTx_inp : (s.setTx x).inp = s.inp := rfl
@[simp] theorem State.setTx_tx : (s.setTx x).tx = x := rfl
@[simp] theorem State.setTx_reg : (s.setTx x).reg = s.reg := rfl
@[simp] theorem State.setTx_ee : (s.setTx x).ee = s.ee := rfl
@[simp] theorem State.setTx_pdBits : (s.setTx x).pdBits = s.pdBits := rfl
@[simp] theorem State.setTx_pdMode : (s.setTx x).pdMode = s.pdMode := rfl
@[simp] theorem State.setTx_driver : (s.setTx x).driver = s.driver := rfl
@[simp] theorem State.setTx_inflight : (s.setTx x).inflight = s.inflight := rfl
@[simp] theorem State.setTx_calls : (s.setTx x).calls = s.calls := rfl
@[simp] theorem State.setTx_results : (s.setTx x).results = s.results := rfl
@[simp] theorem State.setTx_agenda : (s.setTx x).agenda = s.agenda := rfl
@[simp] theorem State.setTx_writeAnswers : (s.setTx x).writeAnswers = s.writeAnswers := rfl
@[simp] theorem State.setTx_readAnswers : (s.setTx x).readAnswers = s.readAnswers := rfl
end setTx

section setReg
variable (s : State) (x : Option RegisterStatus)
@[simp] theorem State.setReg_inp : (s.setReg x).inp = s.inp := rfl
@[simp] theorem State.setReg_tx : (s.setReg x).tx = s.tx := rfl
@[simp] theorem State.setReg_reg : (s.setReg x).reg = x := rfl
@[simp] theorem State.setReg_ee : (s.setReg x).ee = s.ee := rfl
@[simp] theorem State.setReg_pdBits : (s.setReg x).pdBits = s.pdBits := rfl
@[simp] theorem State.setReg_pdMode : (s.setReg x).pdMode = s.pdMode := rfl
@[simp] theorem State.setReg_driver : (s.setReg x).driver = s.driver := rfl
@[simp] theorem State.setReg_inflight : (s.setReg x).inflight = s.inflight := rfl
@[simp] theorem State.setReg_calls : (s.setReg x).calls = s.calls := rfl
@[simp] theorem State.setReg_results : (s.setReg x).results = s.results := rfl
@[simp] theorem State.setReg_agenda : (s.setReg x).agenda = s.agenda := rfl
@[simp] theorem State.setReg_writeAnswers : (s.setReg x).writeAnswers = s.writeAnswers := rfl
@[simp] theorem State.setReg_readAnswers : (s.setReg x).readAnswers = s.readAnswers := rfl
end setReg

section setEe
variable (s : State) (x : Option EepromStatus)
@[simp] theorem State.setEe_inp : (s.setEe x).inp = s.inp := rfl
@[simp] theorem State.setEe_tx : (s.setEe x).tx = s.tx := rfl
@[simp] theorem State.setEe_reg : (s.setEe x).reg = s.reg := rfl
@[simp] theorem State.setEe_ee : (s.setEe x).ee = x := rfl
@[simp] theorem State.setEe_pdBits : (s.setEe x).pdBits = s.pdBits := rfl
@[simp] theorem State.setEe_pdMode : (s.setEe x).pdMode = s.pdMode := rfl
@[simp] theorem State.setEe_driver : (s.setEe x).driver = s.driver := rfl
@[simp] theorem State.setEe_inflight : (s.setEe x).inflight = s.inflight := rfl
@[simp] theorem State.setEe_calls : (s.setEe x).calls = s.calls := rfl
@[simp] theorem State.setEe_results : (s.setEe x).results = s.results := rfl
@[simp] theorem State.setEe_agenda : (s.setEe x).agenda = s.agenda := rfl
@[simp] theorem State.setEe_writeAnswers : (s.setEe x).writeAnswers = s.writeAnswers := rfl
@[simp] theorem State.setEe_readAnswers : (s.setEe x).readAnswers = s.readAnswers := rfl
end setEe

section setPdBits
variable (s : State) (x : Option ModeBits)
@[simp] theorem State.setPdBits_inp : (s.setPdBits x).inp = s.inp := rfl
@[simp] theorem State.setPdBits_tx : (s.setPdBits x).tx = s.tx := rfl
@[simp] theorem State.setPdBits_reg : (s.setPdBits x).reg = s.reg := rfl
@[simp] theorem State.setPdBits_ee : (s.setPdBits x).ee = s.ee := rfl
@[simp] theorem State.setPdBits_pdBits : (s.setPdBits x).pdBits = x := rfl
@[simp] theorem State.setPdBits_pdMode : (s.setPdBits x).pdMode = s.pdMode := rfl
@[simp] theorem State.setPdBits_driver : (s.setPdBits x).driver = s.driver := rfl
@[simp] theorem State.setPdBits_inflight : (s.setPdBits x).inflight = s.inflight := rfl
@[simp] theorem State.setPdBits_calls : (s.setPdBits x).calls = s.calls := rfl
@[simp] theorem State.setPdBits_results : (s.setPdBits x).results = s.results := rfl
@[simp] theorem State.setPdBits_agenda : (s.setPdBits x).agenda = s.agenda := rfl
@[simp] theorem State.setPdBits_writeAnswers : (s.setPdBits x).writeAnswers = s.writeAnswers := rfl
@[simp] theorem State.setPdBits_readAnswers : (s.setPdBits x).readAnswers = s.readAnswers := rfl
end setPdBits

section setPdMode
variable (s : State) (x : Option PowerDownMode)
@[simp] theorem State.setPdMode_inp : (s.setPdMode x).inp = s.inp := rfl
@[simp] theorem State.setPdMode_tx : (s.setPdMode x).tx = s.tx := rfl
@[simp] theorem State.setPdMode_reg : (s.setPdMode x).reg = s.reg := rfl
@[simp] theorem State.setPdMode_ee : (s.setPdMode x).ee = s.ee := rfl
@[simp] theorem State.setPdMode_pdBits : (s.setPdMode x).pdBits = s.pdBits := rfl
@[simp] theorem State.setPdMode_pdMode : (s.setPdMode x).pdMode = x := rfl
@[simp] theorem State.setPdMode_driver : (s.setPdMode x).driver = s.driver := rfl
@[simp] theorem State.setPdMode_inflight : (s.setPdMode x).inflight = s.inflight := rfl
@[simp] theorem State.setPdMode_calls : (s.setPdMode x).calls = s.calls := rfl
@[simp] theorem State.setPdMode_results : (s.setPdMode x).results = s.results := rfl
@[simp] theorem State.setPdMode_agenda : (s.setPdMode x).agenda = s.agenda := rfl
@[simp] theorem State.setPdMode_writeAnswers : (s.setPdMode x).writeAnswers = s.writeAnswers := rfl
@[simp] theorem State.setPdMode_readAnswers : (s.setPdMode x).readAnswers = s.readAnswers := rfl
end setPdMode

section setDriver
variable (s : State) (x : Option Driver)
@[simp] theorem State.setDriver_inp : (s.setDriver x).inp = s.inp := rfl
@[simp] theorem State.setDriver_tx : (s.setDriver x).tx = s.tx := rfl
@[simp] theorem State.setDriver_reg : (s.setDriver x).reg = s.reg := rfl
@[simp] theorem State.setDriver_ee : (s.setDriver x).ee = s.ee := rfl
@[simp] theorem State.setDriver_pdBits : (s.setDriver x).pdBits = s.pdBits := rfl
@[simp] theorem State.setDriver_pdMode : (s.setDriver x).pdMode = s.pdMode := rfl
@[simp] theorem State.setDriver_driver : (s.setDriver x).driver = x := rfl
@[simp] theorem State.setDriver_inflight : (s.setDriver x).inflight = s.inflight := rfl
@[simp] theorem State.setDriver_calls : (s.setDriver x).calls = s.calls := rfl
@[simp] theorem State.setDriver_results : (s.setDriver x).results = s.results := rfl
@[simp] theorem State.setDriver_agenda : (s.setDriver x).agenda = s.agenda := rfl
@[simp] theorem State.setDriver_writeAnswers : (s.setDriver x).writeAnswers = s.writeAnswers := rfl
@[simp] theorem State.setDriver_readAnswers : (s.setDriver x).readAnswers = s.readAnswers := rfl
end setDriver

section setInflight
variable (s : State) (x : Option BusCall)
@[simp] theorem State.setInflight_inp : (s.setInflight x).inp = s.inp := rfl
@[simp] theorem State.setInflight_tx : (s.setInflight x).tx = s.tx := rfl
@[simp] theorem State.setInflight_reg : (s.setInflight x).reg = s.reg := rfl
@[simp] theorem State.setInflight_ee : (s.setInflight x).ee = s.ee := rfl
@[simp] theorem State.setInflight_pdBits : (s.setInflight x).pdBits = s.pdBits := rfl
@[simp] theorem State.setInflight_pdMode : (s.setInflight x).pdMode = s.pdMode := rfl
@[simp] theorem State.setInflight_driver : (s.setInflight x).driver = s.driver := rfl
@[simp] theorem State.setInflight_inflight : (s.setInflight x).inflight = x := rfl
@[simp] theorem State.setInflight_calls : (s.setInflight x).calls = s.calls := rfl
@[simp] theorem State.setInflight_results : (s.setInflight x).results = s.results := rfl
@[simp] theorem State.setInflight_agenda : (s.setInflight x).agenda = s.agenda := rfl
@[simp] theorem State.setInflight_writeAnswers : (s.setInflight x).writeAnswers = s.writeAnswers := rfl
@[simp] theorem State.setInflight_readAnswers : (s.setInflight x).readAnswers = s.readAnswers := rfl
end setInflight

section setCalls
variable (s : State) (x : List BusCall)
@[simp] theorem State.setCalls_inp : (s.setCalls x).inp = s.inp := rfl
@[simp] theorem State.setCalls_tx : (s.setCalls x).tx = s.tx := rfl
@[simp] theorem State.setCalls_reg : (s.setCalls x).reg = s.reg := rfl
@[simp] theorem State.setCalls_ee : (s.setCalls x).ee = s.ee := rfl
@[simp] theorem State.setCalls_pdBits : (s.setCalls x).pdBits = s.pdBits := rfl
@[simp] theorem State.setCalls_pdMode : (s.setCalls x).pdMode = s.pdMode := rfl
@[simp] theorem State.setCalls_driver : (s.setCalls x).driver = s.driver := rfl
@[simp] theorem State.setCalls_inflight : (s.setCalls x).inflight = s.inflight := rfl
@[simp] theorem State.setCalls_calls : (s.setCalls x).calls = x := rfl
@[simp] theorem State.setCalls_results : (s.setCalls x).results = s.results := rfl
@[simp] theorem State.setCalls_agenda : (s.setCalls x).agenda = s.agenda := rfl
@[simp] theorem State.setCalls_writeAnswers : (s.setCalls x).writeAnswers = s.writeAnswers := rfl
@[simp] theorem State.setCalls_readAnswers : (s.setCalls x).readAnswers = s.readAnswers := rfl
end setCalls

section setResults
variable (s : State) (x : List HostResult)
@[simp] theorem State.setResults_inp : (s.setResults x).inp = s.inp := rfl
@[simp] theorem State.setResults_tx : (s.setResults x).tx = s.tx := rfl
@[simp] theorem State.setResults_reg : (s.setResults x).reg = s.reg := rfl
@[simp] theorem State.setResults_ee : (s.setResults x).ee = s.ee := rfl
@[simp] theorem State.setResults_pdBits : (s.setResults x).pdBits = s.pdBits := rfl
@[simp] theorem State.setResults_pdMode : (s.setResults x).pdMode = s.pdMode := rfl
@[simp] theorem State.setResults_driver : (s.setResults x).driver = s.driver := rfl
@[simp] theorem State.setResults_inflight : (s.setResults x).inflight = s.inflight := rfl
@[simp] theorem State.setResults_calls : (s.setResults x).calls = s.calls := rfl
@[simp] theorem State.setResults_results : (s.setResults x).results = x := rfl
@[simp] theorem State.setResults_agenda : (s.setResults x).agenda = s.agenda := rfl
@[simp] theorem State.setResults_writeAnswers : (s.setResults x).writeAnswers = s.writeAnswers := rfl
@[simp] theorem State.setResults_readAnswers : (s.setResults x).readAnswers = s.readAnswers := rfl
end setResults

section setAgenda
variable (s : State) (x : List Request)
@[simp] theorem State.setAgenda_inp : (s.setAgenda x).inp = s.inp := rfl
@[simp] theorem State.setAgenda_tx : (s.setAgenda x).tx = s.tx := rfl
@[simp] theorem State.setAgenda_reg : (s.setAgenda x).reg = s.reg := rfl
@[simp] theorem State.setAgenda_ee : (s.setAgenda x).ee = s.ee := rfl
@[simp] theorem State.setAgenda_pdBits : (s.setAgenda x).pdBits = s.pdBits := rfl
@[simp] theorem State.setAgenda_pdMode : (s.setAgenda x).pdMode = s.pdMode := rfl
@[simp] theorem State.setAgenda_driver : (s.setAgenda x).driver = s.driver := rfl
@[simp] theorem State.setAgenda_inflight : (s.setAgenda x).inflight = s.inflight := rfl
@[simp] theorem State.setAgenda_calls : (s.setAgenda x).calls = s.calls := rfl
@[simp] theorem State.setAgenda_results : (s.setAgenda x).results = s.results := rfl
@[simp] theorem State.setAgenda_agenda : (s.setAgenda x).agenda = x := rfl
@[simp] theorem State.setAgenda_writeAnswers : (s.setAgenda x).writeAnswers = s.writeAnswers := rfl
@[simp] theorem State.setAgenda_readAnswers : (s.setAgenda x).readAnswers = s.readAnswers := rfl
end setAgenda

section setWriteAnswers
variable (s : State) (x : List WriteAnswer)
@[simp] theorem State.setWriteAnswers_inp : (s.setWriteAnswers x).inp = s.inp := rfl
@[simp] theorem State.setWriteAnswers_tx : (s.setWriteAnswers x).tx = s.tx := rfl
@[simp] theorem State.setWriteAnswers_reg : (s.setWriteAnswers x).reg = s.reg := rfl
@[simp] theorem State.setWriteAnswers_ee : (s.setWriteAnswers x).ee = s.ee := rfl
@[simp] theorem State.setWriteAnswers_pdBits : (s.setWriteAnswers x).pdBits = s.pdBits := rfl
@[simp] theorem State.setWriteAnswers_pdMode : (s.setWriteAnswers x).pdMode = s.pdMode := rfl
@[simp] theorem State.setWriteAnswers_driver : (s.setWriteAnswers x).driver = s.driver := rfl
@[simp] theorem State.setWriteAnswers_inflight : (s.setWriteAnswers x).inflight = s.inflight := rfl
@[simp] theorem State.setWriteAnswers_calls : (s.setWriteAnswers x).calls = s.calls := rfl
@[simp] theorem State.setWriteAnswers_results : (s.setWriteAnswers x).results = s.results := rfl
@[simp] theorem State.setWriteAnswers_agenda : (s.setWriteAnswers x).agenda = s.agenda := rfl
@[simp] theorem State.setWriteAnswers_writeAnswers : (s.setWriteAnswers x).writeAnswers = x := rfl
@[simp] theorem State.setWriteAnswers_readAnswers : (s.setWriteAnswers x).readAnswers = s.readAnswers := rfl
end setWriteAnswers

section setReadAnswers
variable (s : State) (x : List ReadAnswer)
@[simp] theorem State.setReadAnswers_inp : (s.setReadAnswers x).inp = s.inp := rfl
@[simp] theorem State.setReadAnswers_tx : (s.setReadAnswers x).tx = s.tx := rfl
@[simp] theorem State.setReadAnswers_reg : (s.setReadAnswers x).reg = s.reg := rfl
@[simp] theorem State.setReadAnswers_ee : (s.setReadAnswers x).ee = s.ee := rfl
@[simp] theorem State.setReadAnswers_pdBits : (s.setReadAnswers x).pdBits = s.pdBits := rfl
@[simp] theorem State.setReadAnswers_pdMode : (s.setReadAnswers x).pdMode = s.pdMode := rfl
@[simp] theorem State.setReadAnswers_driver : (s.setReadAnswers x).driver = s.driver := rfl
@[simp] theorem State.setReadAnswers_inflight : (s.setReadAnswers x).inflight = s.inflight := rfl
@[simp] theorem State.setReadAnswers_calls : (s.setReadAnswers x).calls = s.calls := rfl
@[simp] theorem State.setReadAnswers_results : (s.setReadAnswers x).results = s.results := rfl
@[simp] theorem State.setReadAnswers_agenda : (s.setReadAnswers x).agenda = s.agenda := rfl
@[simp] theorem State.setReadAnswers_writeAnswers : (s.setReadAnswers x).writeAnswers = s.writeAnswers := rfl
@[simp] theorem State.setReadAnswers_readAnswers : (s.setReadAnswers x).readAnswers = x := rfl
end setReadAnswers

end Sys2Proof.Machine
end

