-- ==== Sys2Proof/Laws/Ops.lean ====
section
/-! SUPPORT. One lemma per shared operation: everything it can do. Provers cite these and do not unfold the operations. -/

namespace Sys2Proof.Machine

open Config (BusHandle)

/-! ### Ports carry values faithfully -/

@[simp] theorem pdDecode_pdEncode (m : PowerDownMode) : pdDecode (pdEncode m) = m := by cases m <;> rfl

@[simp] theorem boolOfBit_bitOfBool (b : Bool) : boolOfBit (bitOfBool b) = b := by cases b <;> rfl

/-! ### The five runs of an encoder or a decoder unit -/

/-- The TX space that holds a list of bytes from index 0 on. -/
def spaceOfBytes (bs : List Byte) : Memory := bs.zipIdx.map fun p => (p.2, p.1)

@[simp] theorem spaceOfBytes_two (b0 b1 : Byte) : spaceOfBytes [b0, b1] = [(0, b0), (1, b1)] := rfl

@[simp] theorem spaceOfBytes_three (b0 b1 b2 : Byte) : spaceOfBytes [b0, b1, b2] = [(0, b0), (1, b1), (2, b2)] := rfl

/-- `fast_write`: the `fw_*` ports are driven and TX is the frame; nothing else changes. -/
theorem State.runFast_eq (s : State) (m : PowerDownMode) (d : Word16) :
    s.runFast m d = (s.setInp (s.inp.driveFast m d)).setTx (spaceOfBytes (fastWriteFrame m d).toList) := by
  simp [State.runFast, State.takeFast, State.outputs, blockOutputs, Inputs.driveFast, Memory.write16, Memory.empty, Memory.write,
    fastWriteFrame]

/-- `write`: the `wr_*` ports are driven and TX is the frame; nothing else changes. -/
theorem State.runWrite_eq (s : State) (m : PowerDownMode) (d : Word16) (p : Bool) :
    s.runWrite m d p = (s.setInp (s.inp.driveWrite m d p)).setTx (spaceOfBytes (writeFrame m d p).toList) := by
  simp [State.runWrite, State.takeWrite, State.outputs, blockOutputs, Inputs.driveWrite, Memory.write16, Memory.empty, Memory.write,
    writeFrame]

/-- `set_voltage`: the `sv_*` ports are driven and TX is the frame's `sv_len` bytes; nothing else changes. -/
theorem State.runVoltage_eq (s : State) (d : Word16) (p : Bool) :
    s.runVoltage d p = (s.setInp (s.inp.driveVoltage d p)).setTx (spaceOfBytes (setVoltagePorts d p).frame) := by
  cases p <;>
    simp [State.runVoltage, State.takeVoltage, State.outputs, blockOutputs, Inputs.driveVoltage, Memory.empty, Memory.write,
      setVoltagePorts, SetVoltagePorts.frame]

/-- `decode_register`: three reply ports are driven and the register view is taken; nothing else changes. -/
theorem State.runRegister_eq (s : State) (b0 b1 b2 : Byte) :
    s.runRegister b0 b1 b2 = (s.setInp (s.inp.driveRegister b0 b1 b2)).setReg (some (decodeRegister b0 b1 b2)) := by
  simp [State.runRegister, State.takeRegister, State.outputs, blockOutputs, Inputs.driveRegister, Inputs.rx, decodeReply,
    decodeRegister]

/-- `decode_eeprom`: two reply ports are driven and the EEPROM view is taken; nothing else changes. -/
theorem State.runEeprom_eq (s : State) (b3 b4 : Byte) :
    s.runEeprom b3 b4 = (s.setInp (s.inp.driveEeprom b3 b4)).setEe (some (decodeEeprom b3 b4)) := by
  simp [State.runEeprom, State.takeEeprom, State.outputs, blockOutputs, Inputs.driveEeprom, Inputs.rx, decodeReply, decodeEeprom]

/-- `decode_reply`: all five reply ports are driven and both views are taken; nothing else changes. -/
theorem State.runReply_eq (s : State) (b0 b1 b2 b3 b4 : Byte) :
    s.runReply b0 b1 b2 b3 b4 =
      ((s.setInp ((s.inp.driveRegister b0 b1 b2).driveEeprom b3 b4)).setReg (some (decodeRegister b0 b1 b2))).setEe
        (some (decodeEeprom b3 b4)) := by
  simp [State.runReply, State.takeRegister, State.takeEeprom, State.outputs, blockOutputs, Inputs.driveRegister, Inputs.driveEeprom,
    Inputs.rx, decodeReply, decodeRegister, decodeEeprom]

/-! ### The codec's runs -/

theorem State.runPdEncode_eq (s : State) (m : PowerDownMode) :
    s.runPdEncode m = (s.setInp { s.inp with pdeMode := m }).setPdBits (some (pdEncode m)) := rfl

theorem State.runPdDecode_eq (s : State) (b : ModeBits) :
    s.runPdDecode b = (s.setInp { s.inp with pddBits := b }).setPdMode (some (pdDecode b)) := rfl

theorem State.runVariant_eq (s : State) (m : PowerDownMode) (b : ModeBits) :
    s.runVariant m b =
      ((s.setInp { s.inp with pdeMode := m, pddBits := b }).setPdBits (some (pdEncode m))).setPdMode (some (pdDecode b)) := rfl

/-! ### The orchestrator -/

/-- Issuing a transaction records the call and suspends; nothing else changes. -/
theorem State.issue_eq (s : State) (c : BusCall) :
    s.issue c = (s.setCalls (s.calls ++ [c])).setInflight (some c) := rfl

/-- Finishing an operation records the result and ends the suspension; nothing else changes. -/
theorem State.finish_eq (s : State) (r : HostResult) :
    s.finish r = (s.setResults (s.results ++ [r])).setInflight none := rfl

/-- A resumed write: an answer ends it with that answer; without one nothing changes. -/
theorem resumeWrite_cases (s : State) :
    (s.writeAnswers = [] ∧ resumeWrite s = s) ∨
    (∃ rest, s.writeAnswers = .success :: rest ∧ resumeWrite s = (s.setWriteAnswers rest).finish .success) ∨
    (∃ e rest, s.writeAnswers = .failure e :: rest ∧ resumeWrite s = (s.setWriteAnswers rest).finish (.err e)) := by
  rcases h : s.writeAnswers with _ | ⟨a, rest⟩
  · simp [resumeWrite, h]
  · cases a <;> simp [resumeWrite, h]

/-- A resumed read: a reply ends it with the decoded pair, an error with that error; without an answer nothing changes. -/
theorem resumeRead_cases (s : State) :
    (s.readAnswers = [] ∧ resumeRead s = s) ∨
    (∃ b0 b1 b2 b3 b4 rest, s.readAnswers = .filled b0 b1 b2 b3 b4 :: rest ∧
      resumeRead s = ((s.setReadAnswers rest).runReply b0 b1 b2 b3 b4).finish
        (.status (decodeRegister b0 b1 b2) (decodeEeprom b3 b4))) ∨
    (∃ e rest, s.readAnswers = .failure e :: rest ∧ resumeRead s = (s.setReadAnswers rest).finish (.err e)) := by
  rcases h : s.readAnswers with _ | ⟨a, rest⟩
  · simp [resumeRead, h]
  · cases a
    · simp [resumeRead, h, finishRead, State.statusResult, State.runReply_eq, Inputs.rx, Inputs.driveRegister,
        Inputs.driveEeprom, decodeReply]
    · simp [resumeRead, h]

/-- What a turn did: nothing, or a resumption of the operation in flight. -/
theorem State.takeTurn_cases (s : State) :
    (s.inflight = none ∧ s.takeTurn = s) ∨ (∃ c, s.inflight = some c ∧ s.takeTurn = resume c s) := by
  rcases h : s.inflight with _ | c <;> simp [State.takeTurn, h]

/-- At its turn the operation in flight resumes, on the agenda that the turn leaves. -/
theorem step_of_turnAt {s : State} {c : BusCall} (hc : s.inflight = some c) (ht : turnAt s.agenda = true) :
    step s = .next (resume c (s.setAgenda (afterTurn s.agenda))) := by
  rcases ha : s.agenda with _ | ⟨r, rest⟩
  · have : s.setAgenda [] = s := by rw [← ha]; rfl
    simp [step, advance, ha, State.takeTurn, hc, afterTurn, this]
  · have : s.setAgenda (r :: rest) = s := by rw [← ha]; rfl
    cases r <;> simp_all [step, advance, State.takeTurn, turnAt, afterTurn, Request.needsOrchestrator, serve]

/-- With nothing in flight the head of the agenda is served, whatever it asks for. -/
theorem step_of_idle {s : State} {r : Request} {rest : List Request} (hn : s.inflight = none) (ha : s.agenda = r :: rest) :
    step s = serve r (s.setAgenda rest) := by
  simp [step, advance, ha, hn]

/-- A request that does not need the orchestrator is served whatever is in flight. -/
theorem step_of_free {s : State} {r : Request} {rest : List Request} (hr : r.needsOrchestrator = false)
    (ha : s.agenda = r :: rest) : step s = serve r (s.setAgenda rest) := by
  simp [step, advance, ha, hr]

/-- What a step that goes on did: gave a suspended operation its turn, or served the next request; one that needs the orchestrator
only with nothing in flight. -/
theorem advance_next_cases {s t : State} (h : advance s = .next t) :
    t = s.takeTurn ∨
    (∃ r rest, s.agenda = r :: rest ∧ (r.needsOrchestrator = true → s.inflight = none) ∧
      serve r (s.setAgenda rest) = .next t) := by
  unfold advance at h
  split at h
  · exact .inl (by simpa using h.symm)
  · rename_i r rest ha
    split at h
    · exact .inl (by simpa using h.symm)
    · rename_i hw
      exact .inr ⟨r, rest, ha, by simpa using hw, h⟩

/-- What serving a request that goes on did: ran an instruction, constructed the orchestrator, ran a host operation, or gave a
suspended operation its turn. -/
theorem serve_next_cases {r : Request} {s t : State} (h : serve r s = .next t) :
    (∃ i, exec i s = .next t) ∨
    (∃ bus addr7, r = .construct bus addr7 ∧ s.driver = none ∧ t = s.setDriver (some { bus := bus, addr7 := addr7 })) ∨
    (∃ op d, r = .host op ∧ s.driver = some d ∧ t = startHostOp op d s) ∨
    (r = .yield ∧ t = s.takeTurn) := by
  have decoded : ∀ x : Decoded, runDecoded x s = .next t → ∃ i, exec i s = .next t := by
    intro x hx
    cases x with
    | ok i => exact ⟨i, hx⟩
    | reject e => simp [runDecoded] at hx
  cases r with
  | invoke i => exact .inl ⟨i, h⟩
  | rowImage row bytes => exact .inl (decoded _ h)
  | image bytes => exact .inl (decoded _ h)
  | construct bus addr7 =>
    simp only [serve, runConstruct] at h
    split at h
    · simp at h
    · rename_i hd
      exact .inr (.inl ⟨bus, addr7, rfl, hd, by simpa using h.symm⟩)
  | host op =>
    simp only [serve, runHostOp] at h
    split at h
    · rename_i d hd
      exact .inr (.inr (.inl ⟨op, d, rfl, hd, by simpa using h.symm⟩))
    · simp at h
  | yield => exact .inr (.inr (.inr ⟨rfl, by simpa [serve] using h.symm⟩))

end Sys2Proof.Machine
end

