-- ==== Sys2Proof/Laws/Table.lean ====
section
/-! SUPPORT. The word that a frame's bytes spell, and which rows of the opcode table admit it. -/

namespace Sys2Proof

/-- Cutting a 16-bit word into bytes and spelling it again gives its number. -/
theorem wordOfBytes_cut16 (w : BitVec 16) : wordOfBytes [w.extractLsb' 8 8, w.extractLsb' 0 8] = w.toNat := by
  simp [wordOfBytes, Nat.shiftRight_eq_div_pow]
  omega

/-- Cutting a 24-bit word into bytes and spelling it again gives its number. -/
theorem wordOfBytes_cut24 (w : BitVec 24) :
    wordOfBytes [w.extractLsb' 16 8, w.extractLsb' 8 8, w.extractLsb' 0 8] = w.toNat := by
  simp [wordOfBytes, Nat.shiftRight_eq_div_pow]
  omega

theorem wordOfBytes_one (b : Byte) : wordOfBytes [b] = b.toNat := by simp [wordOfBytes]

/-- Two bytes spell the big-endian pair they make. -/
theorem wordOfBytes_two (b0 b1 : Byte) : wordOfBytes [b0, b1] = (Machine.be16 b0 b1).toNat := by
  refine Eq.trans ?_ (BitVec.toNat_append b0 b1).symm
  rw [← Nat.shiftLeft_add_eq_or_of_lt b1.isLt]
  simp [wordOfBytes, Nat.shiftLeft_eq]

/-- Three bytes spell the 24-bit word they make. -/
theorem wordOfBytes_three (b0 b1 b2 : Byte) : wordOfBytes [b0, b1, b2] = (b0 ++ b1 ++ b2).toNat := by
  rw [BitVec.toNat_append, BitVec.toNat_append, ← Nat.shiftLeft_add_eq_or_of_lt b2.isLt,
    ← Nat.shiftLeft_add_eq_or_of_lt b1.isLt]
  simp [wordOfBytes, Nat.shiftLeft_eq]

/-- A masked number of a word is the number of the masked word. -/
theorem land_toNat {n : Nat} (w : BitVec n) (m : Nat) (h : m < 2 ^ n) : w.toNat &&& m = (w &&& BitVec.ofNat n m).toNat := by
  rw [BitVec.toNat_and, BitVec.toNat_ofNat, Nat.mod_eq_of_lt h]

/-- A 16-bit row admits the bytes of a word that has the row's match under its mask. -/
theorem admits_cut16 (r : Row) (mask matched : Nat) (w : BitVec 16) (hm : mask < 2 ^ 16) (hx : matched < 2 ^ 16)
    (h : w &&& BitVec.ofNat 16 mask = BitVec.ofNat 16 matched) :
    (TableRow.mk r 16 mask matched).admits [w.extractLsb' 8 8, w.extractLsb' 0 8] = true := by
  simp only [TableRow.admits, wordOfBytes_cut16, land_toNat _ _ hm, h, BitVec.toNat_ofNat, Nat.mod_eq_of_lt hx]
  simp only [w.isLt, decide_true]
  simp [TableRow.byteCount]

/-- A 24-bit row admits the bytes of a word that has the row's match under its mask. -/
theorem admits_cut24 (r : Row) (mask matched : Nat) (w : BitVec 24) (hm : mask < 2 ^ 24) (hx : matched < 2 ^ 24)
    (h : w &&& BitVec.ofNat 24 mask = BitVec.ofNat 24 matched) :
    (TableRow.mk r 24 mask matched).admits [w.extractLsb' 16 8, w.extractLsb' 8 8, w.extractLsb' 0 8] = true := by
  simp only [TableRow.admits, wordOfBytes_cut24, land_toNat _ _ hm, h, BitVec.toNat_ofNat, Nat.mod_eq_of_lt hx]
  simp only [w.isLt, decide_true]
  simp [TableRow.byteCount]

end Sys2Proof
end

