-- ==== Sys2Proof/Laws/PerInstr.lean ====
section
/-! SUPPORT. Per instruction: its encoding is a word of its own row of spec/opcode_table.json (length, mask and match). -/

namespace Sys2Proof.Laws.MatchesTable

/-- The encoding of an instruction is admitted by the instruction's row of the opcode table. -/
def Statement (i : Instr) : Prop := ∃ r ∈ opcodeTable, r.row = i.row ∧ r.admits (encode i) = true

/-- An FW word under the selector's mask. -/
theorem admits_FW (p : ModeBits) (c : Code) :
    (TableRow.mk .fastWrite 16 0xC000 0x0000).admits (encodeFW p c) = true := by
  refine admits_cut16 _ _ _ _ (by decide) (by decide) (BitVec.eq_of_getLsbD_eq fun i hi => ?_)
  interval_cases i <;> simp

/-- An FW word with mode Normal under the mask of the selector and the mode. -/
theorem admits_FW_normal (c : Code) :
    (TableRow.mk .setVoltageFast 16 0xF000 0x0000).admits (encodeFW 0b00#2 c) = true := by
  refine admits_cut16 _ _ _ _ (by decide) (by decide) (BitVec.eq_of_getLsbD_eq fun i hi => ?_)
  interval_cases i <;> simp

/-- A register-only WR word under its mask: the selector and the constant-zero bits. -/
theorem admits_WR_reg (p : ModeBits) (c : Code) :
    (TableRow.mk .writeReg 24 0xF9000F 0x400000).admits (encodeWR Config.selReg p c) = true := by
  refine admits_cut24 _ _ _ _ (by decide) (by decide) (BitVec.eq_of_getLsbD_eq fun i hi => ?_)
  interval_cases i <;> simp

/-- A persisting WR word under its mask. -/
theorem admits_WR_persist (p : ModeBits) (c : Code) :
    (TableRow.mk .writeEeprom 24 0xF9000F 0x600000).admits (encodeWR Config.selPersist p c) = true := by
  refine admits_cut24 _ _ _ _ (by decide) (by decide) (BitVec.eq_of_getLsbD_eq fun i hi => ?_)
  interval_cases i <;> simp

/-- A persisting WR word with mode Normal under the mask of byte 0 and the padding. -/
theorem admits_WR_normal (c : Code) :
    (TableRow.mk .setVoltagePersist 24 0xFF000F 0x600000).admits (encodeWR Config.selPersist 0b00#2 c) = true := by
  refine admits_cut24 _ _ _ _ (by decide) (by decide) (BitVec.eq_of_getLsbD_eq fun i hi => ?_)
  interval_cases i <;> simp

theorem fastWrite (m : PowerDownMode) (d : Word16) : Statement (.fastWrite m d) :=
  ⟨_, by simp [opcodeTable], rfl, admits_FW _ _⟩

theorem writeReg (m : PowerDownMode) (d : Word16) : Statement (.writeReg m d) :=
  ⟨_, by simp [opcodeTable], rfl, admits_WR_reg _ _⟩

theorem writeEeprom (m : PowerDownMode) (d : Word16) : Statement (.writeEeprom m d) :=
  ⟨_, by simp [opcodeTable], rfl, admits_WR_persist _ _⟩

theorem setVoltageFast (d : Word16) : Statement (.setVoltageFast d) :=
  ⟨_, by simp [opcodeTable], rfl, admits_FW_normal _⟩

theorem setVoltagePersist (d : Word16) : Statement (.setVoltagePersist d) :=
  ⟨_, by simp [opcodeTable], rfl, admits_WR_normal _⟩

theorem readReply (b0 b1 b2 b3 b4 : Byte) : Statement (.readReply b0 b1 b2 b3 b4) := by
  refine ⟨⟨.readReply, 40, 0, 0⟩, by simp [opcodeTable], rfl, ?_⟩
  simp [TableRow.admits, TableRow.byteCount, encode, wordOfBytes]
  omega

theorem regStatus (b0 b1 b2 : Byte) : Statement (.regStatus b0 b1 b2) := by
  refine ⟨⟨.regStatus, 24, 0, 0⟩, by simp [opcodeTable], rfl, ?_⟩
  simp [TableRow.admits, TableRow.byteCount, encode, wordOfBytes]
  omega

theorem eepromStatus (b3 b4 : Byte) : Statement (.eepromStatus b3 b4) := by
  refine ⟨⟨.eepromStatus, 16, 0, 0⟩, by simp [opcodeTable], rfl, ?_⟩
  simp [TableRow.admits, TableRow.byteCount, encode, wordOfBytes]
  omega

theorem pdNormal : Statement .pdNormal := ⟨⟨.pdNormal, 2, 0x3, 0x0⟩, by simp [opcodeTable], rfl, by decide⟩

theorem pdOneK : Statement .pdOneK := ⟨⟨.pdOneK, 2, 0x3, 0x1⟩, by simp [opcodeTable], rfl, by decide⟩

theorem pdOneHundredK : Statement .pdOneHundredK := ⟨⟨.pdOneHundredK, 2, 0x3, 0x2⟩, by simp [opcodeTable], rfl, by decide⟩

theorem pdFiveHundredK : Statement .pdFiveHundredK := ⟨⟨.pdFiveHundredK, 2, 0x3, 0x3⟩, by simp [opcodeTable], rfl, by decide⟩

theorem pdEncode (m : PowerDownMode) : Statement (.pdEncode m) :=
  ⟨⟨.pdEncode, 2, 0x0, 0x0⟩, by simp [opcodeTable], rfl, by cases m <;> decide⟩

theorem pdDecode (b : ModeBits) : Statement (.pdDecode b) :=
  ⟨⟨.pdDecode, 2, 0x0, 0x0⟩, by simp [opcodeTable], rfl, by revert b; decide⟩

end Sys2Proof.Laws.MatchesTable
end

