-- ==== Sys2Proof/Tests/Slice0.lean ====
section
/-! SUPPORT. Tests. Every expected value is from spec/95_test_vectors.md (its id in the name or the comment) or written out from
the layouts R45 to R48; then, for every obligation that has hypotheses, a state and operands that meet all of them. -/

namespace Sys2Proof.Tests

open Sys2Proof Sys2Proof.Machine
open Sys2Proof.Config (TransportError BusHandle)

/-- The next state, if there is one. -/
def next? (o : Host.Outcome State Fault Refusal) : Option State :=
  match o with
  | .next t => some t
  | .fault _ => none
  | .refused _ => none

/-- The refusal, if there is one. -/
def refusal? (o : Host.Outcome State Fault Refusal) : Option Refusal :=
  match o with
  | .next _ => none
  | .fault _ => none
  | .refused r => some r

/-- The frame an instruction leaves in TX. -/
def frameOf (i : Instr) (s : State := State.reset) : Option (List Byte) := (next? (exec i s)).map (·.tx.bytes)

/-- The register view an instruction leaves. -/
def regOf (i : Instr) : Option RegisterStatus := (next? (exec i State.reset)).bind (·.reg)

/-- The EEPROM view an instruction leaves. -/
def eeOf (i : Instr) : Option EepromStatus := (next? (exec i State.reset)).bind (·.ee)

/-- The orchestrator of the spec's programs: its address is `0b1100001`. -/
def driver0 : Driver := { bus := ⟨0⟩, addr7 := 0b1100001#7 }

/-- Reset with one request. -/
def asked (r : Request) : State := { State.reset with agenda := [r] }

/-- Reset with an orchestrator and one request. -/
def held (r : Request) : State := { asked r with driver := some driver0 }

/-- A read in flight. -/
def reading (answers : List ReadAnswer) : State :=
  { State.reset with
    driver := some driver0, inflight := some (.read 0b1100001#7), calls := [.read 0b1100001#7], readAnswers := answers }

/-- A write in flight. -/
def writing (answers : List WriteAnswer) : State :=
  { State.reset with
    driver := some driver0, inflight := some (.write 0b1100001#7 [0x1A#8, 0xAA#8])
    calls := [.write 0b1100001#7 [0x1A#8, 0xAA#8]], writeAnswers := answers }

/-! ### Well-formedness refuses an operand with a bit above bit 11 (R71) -/

theorem test_wf_fastWrite : (Instr.fastWrite .oneK 0x0FFF#16).wf = true ∧ (Instr.fastWrite .oneK 0x1000#16).wf = false := by
  decide

theorem test_wf_writeReg : (Instr.writeReg .normal 0x0FFF#16).wf = true ∧ (Instr.writeReg .normal 0x1000#16).wf = false := by
  decide

theorem test_wf_writeEeprom :
    (Instr.writeEeprom .normal 0x0FFF#16).wf = true ∧ (Instr.writeEeprom .normal 0x8000#16).wf = false := by decide

theorem test_wf_setVoltageFast :
    (Instr.setVoltageFast 0x0FFF#16).wf = true ∧ (Instr.setVoltageFast 0x2000#16).wf = false := by decide

theorem test_wf_setVoltagePersist :
    (Instr.setVoltagePersist 0x0FFF#16).wf = true ∧ (Instr.setVoltagePersist 0x4000#16).wf = false := by decide

/-! ### Decoding: each row's word written out from its layout -/

/-- R45 `00PPdddd dddddddd`, scenario S1. -/
theorem test_decode_fastWrite :
    decodeRow .fastWrite [0b00011010#8, 0b10101010#8] = .ok (.fastWrite .oneK 0b101010101010#16) := by decide

/-- R46 `01000PP0 dddddddd dddd0000`, vector W12. -/
theorem test_decode_writeReg :
    decodeRow .writeReg [0b01000100#8, 0b10101011#8, 0b11000000#8] = .ok (.writeReg .oneHundredK 0b101010111100#16) := by
  decide

/-- R46 `01100PP0 dddddddd dddd0000`, scenario S2. -/
theorem test_decode_writeEeprom :
    decodeRow .writeEeprom [0b01100110#8, 0b10101010#8, 0b10100000#8] =
      .ok (.writeEeprom .fiveHundredK 0b101010101010#16) := by decide

/-- R62 `0000dddd dddddddd`, vector V7. -/
theorem test_decode_setVoltageFast :
    decodeRow .setVoltageFast [0b00000001#8, 0b00100011#8] = .ok (.setVoltageFast 0b000100100011#16) := by decide

/-- R62 `01100000 dddddddd dddd0000`, vector V2. -/
theorem test_decode_setVoltagePersist :
    decodeRow .setVoltagePersist [0b01100000#8, 0b10101010#8, 0b10100000#8] =
      .ok (.setVoltagePersist 0b101010101010#16) := by decide

/-- R47: five bytes, each its own operand. -/
theorem test_decode_readReply :
    decodeRow .readReply [0b11000110#8, 0b10101010#8, 0b10100000#8, 0b01101010#8, 0b10101011#8] =
      .ok (.readReply 0xC6#8 0xAA#8 0xA0#8 0x6A#8 0xAB#8) := by decide

/-- R47, bytes 0 to 2. -/
theorem test_decode_regStatus :
    decodeRow .regStatus [0b10000000#8, 0b00010010#8, 0b00111111#8] = .ok (.regStatus 0x80#8 0x12#8 0x3F#8) := by decide

/-- R47, bytes 3 and 4. -/
theorem test_decode_eepromStatus :
    decodeRow .eepromStatus [0b00100000#8, 0b01000101#8] = .ok (.eepromStatus 0x20#8 0x45#8) := by decide

/-- R48, the four variants' codes in their own rows. -/
theorem test_decode_variants :
    decodeRow .pdNormal [0b00#8] = .ok .pdNormal ∧ decodeRow .pdOneK [0b01#8] = .ok .pdOneK ∧
    decodeRow .pdOneHundredK [0b10#8] = .ok .pdOneHundredK ∧ decodeRow .pdFiveHundredK [0b11#8] = .ok .pdFiveHundredK := by
  decide

/-- R48, R64. -/
theorem test_decode_pdEncode : decodeRow .pdEncode [0b10#8] = .ok (.pdEncode .oneHundredK) := by decide

/-- R48, R65. -/
theorem test_decode_pdDecode : decodeRow .pdDecode [0b01#8] = .ok (.pdDecode 0b01#2) := by decide

/-- The table numbers a frame's bits with byte 0 highest (R8): three words of three widths, no row named. -/
theorem test_decode_table_words :
    decodeTableWord 16 0x1AAA = some (.fastWrite .oneK 0xAAA#16) ∧
    decodeTableWord 24 0x44ABC0 = some (.writeReg .oneHundredK 0xABC#16) ∧
    decodeTableWord 40 0xC6AAA06AAA = some (.readReply 0xC6#8 0xAA#8 0xA0#8 0x6A#8 0xAA#8) := by decide

/-- Rows without a command's selector (R58): a pair or three bytes that no command row admits are a part of a reply. -/
theorem test_decode_parts_of_a_reply :
    decodeTableWord 16 0xC045 = some (.eepromStatus 0xC0#8 0x45#8) ∧
    decodeTableWord 24 0x80123F = some (.regStatus 0x80#8 0x12#8 0x3F#8) := by decide

/-- Each rejection under its name (R34, R48, R54, R55, R57, R58, R62, R63). -/
theorem test_reject_selectors :
    decodeRow .fastWrite [0x80#8, 0x00#8] = .reject .unassignedSelector ∧
    decodeRow .fastWrite [0x40#8, 0x00#8] = .reject .otherSelector ∧
    decodeRow .writeReg [0x60#8, 0x00#8, 0x00#8] = .reject .otherSelector ∧
    decodeRow .writeReg [0xE0#8, 0x00#8, 0x00#8] = .reject .unassignedSelector := by decide

theorem test_reject_fields :
    decodeRow .writeReg [0x48#8, 0x00#8, 0x00#8] = .reject .constantZeroBit ∧
    decodeRow .writeEeprom [0x61#8, 0x00#8, 0x00#8] = .reject .constantZeroBit ∧
    decodeRow .writeEeprom [0x60#8, 0x00#8, 0x08#8] = .reject .constantZeroBit ∧
    decodeRow .setVoltageFast [0x1A#8, 0xAA#8] = .reject .modeNotNormal ∧
    decodeRow .pdOneK [0b10#8] = .reject .otherMode ∧
    decodeRow .pdDecode [0b100#8] = .reject .wideModeField := by decide

theorem test_reject_lengths :
    decodeRow .fastWrite [0x1A#8, 0xAA#8, 0x1A#8, 0xAA#8] = .reject .doubledFrame ∧
    decodeRow .writeReg [0x40#8, 0#8, 0#8, 0x40#8, 0#8, 0#8] = .reject .doubledFrame ∧
    decodeRow .readReply [0#8, 0#8, 0#8, 0#8] = .reject (.replyLength 4) ∧
    decodeRow .eepromStatus [0#8] = .reject (.length 1) ∧
    decodeImage [] = .reject (.length 0) := by decide

/-! ### The encoder's rows -/

/-- S1 = F3 (R68). -/
theorem test_fastWrite_S1 : frameOf (.fastWrite .oneK 0xAAA#16) = some [0b00011010#8, 0b10101010#8] := by decide

/-- F14: only discarded bits set, mode `10` at bits 5-4. -/
theorem test_fastWrite_F14 : frameOf (.fastWrite .oneHundredK 0xF000#16) = some [0x20#8, 0x00#8] := by decide

/-- W12 (R69). -/
theorem test_writeReg_W12 : frameOf (.writeReg .oneHundredK 0x0ABC#16) = some [0x44#8, 0xAB#8, 0xC0#8] := by decide

/-- W8: the mask comes before the shift. -/
theorem test_writeReg_W8 : frameOf (.writeReg .normal 0x1001#16) = some [0x40#8, 0x00#8, 0x10#8] := by decide

/-- S2 = W6 (R69). -/
theorem test_writeEeprom_S2 :
    frameOf (.writeEeprom .fiveHundredK 0xAAA#16) = some [0b01100110#8, 0b10101010#8, 0b10100000#8] := by decide

/-- W13. -/
theorem test_writeEeprom_W13 : frameOf (.writeEeprom .oneK 0x0555#16) = some [0x62#8, 0x55#8, 0x50#8] := by decide

/-- V3: two bytes, whatever frame stood in TX before; the third byte port is the pad. -/
theorem test_setVoltageFast_V3 :
    (next? (exec (.setVoltageFast 0xFFFF#16) { State.reset with tx := [(0, 1#8), (1, 2#8), (2, 3#8)] })).map
      (fun t => (t.tx.bytes, t.outputs.svLen, t.outputs.svB2)) = some ([0x0F#8, 0xFF#8], 2#2, 0x00#8) := by decide

/-- V7. -/
theorem test_setVoltageFast_V7 : frameOf (.setVoltageFast 0x0123#16) = some [0x01#8, 0x23#8] := by decide

/-- V9: a third byte that is zero, and the length 3. -/
theorem test_setVoltagePersist_V9 :
    (next? (exec (.setVoltagePersist 0x0800#16) State.reset)).map (fun t => (t.tx.bytes, t.outputs.svLen)) =
      some ([0x60#8, 0x80#8, 0x00#8], 3#2) := by decide

/-- V4. -/
theorem test_setVoltagePersist_V4 : frameOf (.setVoltagePersist 0xFFFF#16) = some [0x60#8, 0xFF#8, 0xF0#8] := by decide

/-! ### The decoder's rows -/

/-- S3 = D1 (R81). -/
theorem test_readReply_S3 :
    regOf (.readReply 0b11000110#8 0b10101010#8 0b10100000#8 0b01101010#8 0b10101010#8) =
      some { raw := 0xC6#8, ready := true, por := true, mode := .fiveHundredK, code := 0xAAA#12 } ∧
    eeOf (.readReply 0b11000110#8 0b10101010#8 0b10100000#8 0b01101010#8 0b10101010#8) =
      some { mode := .fiveHundredK, code := 0xAAA#12 } := by decide

/-- D6: every ignored bit but one set, the code 1 at two alignments. -/
theorem test_readReply_D6 :
    regOf (.readReply 0x3D#8 0x00#8 0x1F#8 0x90#8 0x01#8) =
      some { raw := 0x3D#8, ready := false, por := false, mode := .oneHundredK, code := 0x001#12 } ∧
    eeOf (.readReply 0x3D#8 0x00#8 0x1F#8 0x90#8 0x01#8) = some { mode := .normal, code := 0x001#12 } := by decide

/-- D4, bytes 0 to 2 (R79). -/
theorem test_regStatus_D4 :
    regOf (.regStatus 0x80#8 0x12#8 0x3F#8) =
      some { raw := 0x80#8, ready := true, por := false, mode := .normal, code := 0x123#12 } := by decide

/-- D5, bytes 0 to 2; no EEPROM view. -/
theorem test_regStatus_D5 :
    regOf (.regStatus 0x42#8 0x80#8 0x00#8) =
      some { raw := 0x42#8, ready := false, por := true, mode := .oneK, code := 0x800#12 } ∧
    eeOf (.regStatus 0x42#8 0x80#8 0x00#8) = none := by decide

/-- D5, bytes 3 and 4 (R80). -/
theorem test_eepromStatus_D5 : eeOf (.eepromStatus 0x4F#8 0xFF#8) = some { mode := .oneHundredK, code := 0xFFF#12 } := by
  decide

/-- D7, bytes 3 and 4: the ignored bits 7 and 4 set. -/
theorem test_eepromStatus_D7 : eeOf (.eepromStatus 0x9F#8 0xFF#8) = some { mode := .normal, code := 0xFFF#12 } := by decide

/-! ### The codec's rows (95_test_vectors.md section 2.1) -/

theorem test_pdEncode : (next? (exec (.pdEncode .oneHundredK) State.reset)).bind (·.pdBits) = some 0b10#2 := by decide

theorem test_pdDecode : (next? (exec (.pdDecode 0b11#2) State.reset)).bind (·.pdMode) = some .fiveHundredK := by decide

/-- R63: each variant with its code. -/
theorem test_pd_variants :
    (next? (exec .pdNormal State.reset)).map (fun t => (t.pdMode, t.pdBits)) = some (some .normal, some 0b00#2) ∧
    (next? (exec .pdOneK State.reset)).map (fun t => (t.pdMode, t.pdBits)) = some (some .oneK, some 0b01#2) ∧
    (next? (exec .pdOneHundredK State.reset)).map (fun t => (t.pdMode, t.pdBits)) =
      some (some .oneHundredK, some 0b10#2) ∧
    (next? (exec .pdFiveHundredK State.reset)).map (fun t => (t.pdMode, t.pdBits)) =
      some (some .fiveHundredK, some 0b11#2) := by decide

/-! ### The orchestrator (95_test_vectors.md section 3) -/

/-- Program 1, step 1: two bytes go out. -/
theorem test_host_setVoltage_program1 :
    (next? (step (held (.host (.setVoltage 0x800#16 false))))).map (·.calls) =
      some [.write 0b1100001#7 [0x08#8, 0x00#8]] := by decide

/-- Program 1, step 2: the pair that comes back. -/
theorem test_host_read_program1 :
    (next? (step (reading [.filled 0xC0#8 0x80#8 0x00#8 0x60#8 0x00#8]))).map (·.results) =
      some [.status { raw := 0xC0#8, ready := true, por := true, mode := .normal, code := 0x800#12 }
        { mode := .fiveHundredK, code := 0x000#12 }] := by decide

/-- Program 5: the two errors, unchanged; no view exists after the failed read. -/
theorem test_host_failures_program5 :
    (next? (step (writing [.failure ⟨1⟩]))).map (·.results) = some [.err ⟨1⟩] ∧
    (next? (step (reading [.failure ⟨2⟩]))).map (fun t => (t.results, t.reg, t.ee)) = some ([.err ⟨2⟩], none, none) := by
  decide

/-- R96: the handle comes back, and no operation runs after it. -/
theorem test_host_destroy :
    (next? (step (held (.host .destroy)))).map (fun t => (t.results, t.driver, t.calls)) =
      some ([.handle ⟨0⟩], none, []) ∧
    refusal? (step (asked (.host .read))) = some .noDriver := by decide

/-- R119: with a read in flight and no answer, the block is still evaluated, and the read stays in flight. -/
theorem test_evaluation_while_suspended :
    (next? (step { reading [] with agenda := [.invoke (.fastWrite .oneK 0xAAA#16)] })).map
      (fun t => (t.tx.bytes, t.inflight, t.agenda)) = some ([0x1A#8, 0xAA#8], some (.read 0b1100001#7), []) := by decide

/-- R119: a host operation does not start before the one in flight is over. -/
theorem test_operations_do_not_overlap :
    next? (step { reading [] with agenda := [.host .read] }) = some { reading [] with agenda := [.host .read] } := by decide

/-- A word placed in the state is what the next step runs. -/
theorem test_withFetchWord :
    (next? (step (State.reset.withFetchWord 24 0x66AAA0))).map (·.tx.bytes) = some [0x66#8, 0xAA#8, 0xA0#8] := by decide

/-- R15: with nothing asked, the block does nothing. -/
theorem test_idle_reset : next? (step State.reset) = some State.reset := by decide

/-! ### Witnesses: the hypotheses of the obligations can be met -/

theorem test_witness_StepRunsTheDecodedInstruction :
    (asked (.invoke (.pdEncode .oneK))).agenda = [.invoke (.pdEncode .oneK)] ∧
    (asked (.rowImage .pdEncode [0b01#8])).agenda = [.rowImage .pdEncode [0b01#8]] ∧
    decodeRow .pdEncode [0b01#8] = .ok (.pdEncode .oneK) ∧
    (asked (.image [0x1A#8, 0xAA#8])).agenda = [.image [0x1A#8, 0xAA#8]] ∧
    decodeImage [0x1A#8, 0xAA#8] = .ok (.fastWrite .oneK 0xAAA#16) := by decide

theorem test_witness_PlacedWordRunsNext : decodeTableWord 2 0b11 = some .pdFiveHundredK := by decide

theorem test_witness_BadImagesAreRefused :
    (asked (.rowImage .readReply [])).agenda = [.rowImage .readReply []] ∧
    decodeRow .readReply [] = .reject (.replyLength 0) ∧
    (asked (.image [0#8, 0#8, 0#8, 0#8])).agenda = [.image [0#8, 0#8, 0#8, 0#8]] ∧
    decodeImage [0#8, 0#8, 0#8, 0#8] = .reject .doubledFrame ∧
    refusal? (step (asked (.image [0#8, 0#8, 0#8, 0#8]))) = some (.badImage .doubledFrame) := by decide

theorem test_witness_DecodeOfEncode :
    (Instr.writeEeprom .fiveHundredK 0xFFF#16).wf = true ∧
    encode (.writeEeprom .fiveHundredK 0xFFF#16) = [0x66#8, 0xFF#8, 0xF0#8] := by decide

theorem test_witness_EncodeOfDecode :
    decodeRow .writeEeprom [0x66#8, 0xFF#8, 0xF0#8] = .ok (.writeEeprom .fiveHundredK 0xFFF#16) := by decide

theorem test_witness_EncodeOfDecodeImage :
    decodeImage [0x60#8, 0xFF#8, 0xF0#8] = .ok (.setVoltagePersist 0xFFF#16) := by decide

/-- One list of bytes for each clause, at the ends of its range. -/
theorem test_witness_ImageLengths :
    ([0xFF#8, 0xFF#8] : List Byte).length = 2 ∧ ([0xFF#8, 0xFF#8, 0xFF#8] : List Byte).length = 3 ∧
    ([0#8, 0#8, 0#8, 0#8, 0#8] : List Byte).length = 5 ∧
    decodeImage [3#8] = .ok .pdFiveHundredK ∧ decodeImage [4#8] = .reject .wideModeField ∧
    ([0#8, 0#8, 0#8, 0#8] : List Byte).length = 4 ∧ (List.replicate 6 (0#8 : Byte)).length = 6 ∧
    ([] : List Byte).length = 0 ∧ 6 < (List.replicate 7 (0#8 : Byte)).length := by decide

theorem test_witness_UnassignedSelectorsAreRefused :
    (0x80#8 : Byte).getLsbD 7 = true ∧ (0xFF#8 : Byte).getLsbD 7 = true := by decide

theorem test_witness_ReplyIsFiveBytes :
    ([0#8, 0#8, 0#8, 0#8] : List Byte).length ≠ 5 ∧ (List.replicate 6 (0#8 : Byte)).length ≠ 5 ∧
    ([0#8, 0#8, 0#8, 0#8, 0#8] : List Byte).length = 5 := by decide

theorem test_witness_MaskingLaw :
    Instr.writeEeprom .oneK ∈ [Instr.fastWrite .oneK, Instr.writeReg .oneK, Instr.writeEeprom .oneK, Instr.setVoltageFast,
      Instr.setVoltagePersist] := by simp

theorem test_witness_LengthLaw :
    (Instr.setVoltagePersist 0xFFFF#16, 3) ∈
      [(Instr.fastWrite .oneK 0xFFFF#16, 2), (Instr.writeReg .oneK 0xFFFF#16, 3), (Instr.writeEeprom .oneK 0xFFFF#16, 3),
       (Instr.setVoltageFast 0xFFFF#16, 2), (Instr.setVoltagePersist 0xFFFF#16, 3)] := by decide

/-- Ports that meet each clause of the delegation law. -/
theorem test_witness_DelegationLaw :
    let p : Inputs := { Inputs.reset with fwCode := 0xFFFF#16, svCode := 0xFFFF#16 }
    let q : Inputs := { Inputs.reset with wrCode := 0xFFFF#16, svCode := 0xFFFF#16, wrPersist := 1#1, svPersist := 1#1 }
    (p.svPersist = 0#1 ∧ p.fwMode = 0b00#2 ∧ p.fwCode = p.svCode) ∧
    (q.svPersist = 1#1 ∧ q.wrMode = 0b00#2 ∧ q.wrPersist = 1#1 ∧ q.wrCode = q.svCode) := by decide

theorem test_witness_ConstantZeroBits :
    (blockOutputs { Inputs.reset with svCode := 0xFFFF#16, svPersist := 1#1 }).svLen = 3#2 := by decide

theorem test_witness_EmittedSelectors :
    (Instr.writeReg .fiveHundredK 0xFFFF#16, [false, true, false], 3) ∈
      [(Instr.fastWrite .fiveHundredK 0xFFFF#16, [false, false], 2),
       (Instr.writeReg .fiveHundredK 0xFFFF#16, [false, true, false], 3),
       (Instr.writeEeprom .fiveHundredK 0xFFFF#16, [false, true, true], 3),
       (Instr.setVoltageFast 0xFFFF#16, [false, false, false, false], 2),
       (Instr.setVoltagePersist 0xFFFF#16, [false, true, true, false, false, false, false, false], 3)] := by decide

theorem test_witness_EmittedFrameIsTheEncoding :
    (Instr.setVoltageFast 0xFFFF#16).row ∈
      [Row.fastWrite, Row.writeReg, Row.writeEeprom, Row.setVoltageFast, Row.setVoltagePersist] := by decide

/-- One instruction of each port group, each answering a next state. -/
theorem test_witness_EncoderFrame :
    ∀ i ∈ [Instr.fastWrite .oneK 0x123#16, Instr.writeReg .oneK 0x123#16, Instr.setVoltagePersist 0x123#16],
      i ∈ [Instr.fastWrite .oneK 0x123#16, Instr.writeReg .oneK 0x123#16, Instr.writeEeprom .oneK 0x123#16,
        Instr.setVoltageFast 0x123#16, Instr.setVoltagePersist 0x123#16] ∧
      (next? (exec i State.reset)).isSome = true := by decide

theorem test_witness_DecoderFrame :
    (next? (exec (.regStatus 1#8 2#8 3#8) State.reset)).isSome = true ∧
    (next? (exec (.eepromStatus 4#8 5#8) State.reset)).isSome = true ∧
    (next? (exec (.readReply 1#8 2#8 3#8 4#8 5#8) State.reset)).isSome = true := by decide

theorem test_witness_CodecFrame :
    ∀ i ∈ [Instr.pdEncode .oneK, Instr.pdDecode 0b10#2],
      i ∈ [Instr.pdNormal, .pdOneK, .pdOneHundredK, .pdFiveHundredK, .pdEncode .oneK, .pdDecode 0b10#2] ∧
      (next? (exec i State.reset)).isSome = true := by decide

/-- Replies D2 and D7's ignored bits: equal under the three masks, different as bytes. -/
theorem test_witness_IgnoredReplyBits :
    (0x00#8 : Byte) &&& 0b11000110#8 = 0x39#8 &&& 0b11000110#8 ∧ (0x00#8 : Byte) &&& 0xF0#8 = 0x0F#8 &&& 0xF0#8 ∧
    (0x00#8 : Byte) &&& 0b01101111#8 = 0x90#8 &&& 0b01101111#8 := by decide

theorem test_witness_RawPassThrough :
    Instr.readReply 1#8 2#8 3#8 4#8 5#8 ∈ [Instr.regStatus 1#8 2#8 3#8, Instr.readReply 1#8 2#8 3#8 4#8 5#8] := by decide

/-- Program 3's reply embeds OneHundredK and `0xABC` in both layouts. -/
theorem test_witness_RoundTripLaw :
    let c : Code := (0x1ABC#16 &&& 0xFFF#16).setWidth 12
    ((0x44#8 : Byte).extractLsb' 1 2 = pdEncode .oneHundredK ∧ 0xAB#8 = c.extractLsb' 4 8 ∧
      (0xC0#8 : Byte).extractLsb' 4 4 = c.extractLsb' 0 4) ∧
    ((0x4A#8 : Byte).extractLsb' 5 2 = pdEncode .oneHundredK ∧ (0x4A#8 : Byte).extractLsb' 0 4 = c.extractLsb' 8 4 ∧
      0xBC#8 = c.extractLsb' 0 8) := by decide

/-- Two states that differ, with a next state from each. -/
theorem test_witness_OperationsArePure :
    State.reset ≠ reading [] ∧ (next? (exec .pdOneK State.reset)).isSome = true ∧
    (next? (exec .pdOneK (reading []))).isSome = true := by decide

theorem test_witness_RepeatingAnOperationChangesNothing :
    (next? (exec (.fastWrite .oneK 0xFFFF#16) State.reset)).isSome = true := by decide

theorem test_witness_ConstructionTakesHandleAndAddress :
    ((asked (.construct ⟨7⟩ 1#7)).inflight = none ∧ (asked (.construct ⟨7⟩ 1#7)).agenda = [.construct ⟨7⟩ 1#7] ∧
      (asked (.construct ⟨7⟩ 1#7)).driver = none) ∧
    ((held (.construct ⟨7⟩ 1#7)).inflight = none ∧ (held (.construct ⟨7⟩ 1#7)).agenda = [.construct ⟨7⟩ 1#7] ∧
      (held (.construct ⟨7⟩ 1#7)).driver ≠ none) := by decide

theorem test_witness_HostReadIssuesOneRead :
    (held (.host .read)).inflight = none ∧ (held (.host .read)).driver = some driver0 ∧
    (held (.host .read)).agenda = [.host .read] := by decide

theorem test_witness_HostReadReturnsTheDecodedPair :
    (reading [.filled 1#8 2#8 3#8 4#8 5#8]).inflight = some (.read 0b1100001#7) ∧
    turnAt (reading [.filled 1#8 2#8 3#8 4#8 5#8]).agenda = true ∧
    (reading [.filled 1#8 2#8 3#8 4#8 5#8]).readAnswers = [.filled 1#8 2#8 3#8 4#8 5#8] := by decide

theorem test_witness_HostWritesHandTheFrameOver :
    (HostOp.setVoltage 0xFFFF#16 true, Instr.setVoltagePersist 0xFFFF#16) ∈
      [(HostOp.fastWrite .oneK 0xFFFF#16, Instr.fastWrite .oneK 0xFFFF#16),
       (HostOp.write .oneK 0xFFFF#16 false, Instr.writeReg .oneK 0xFFFF#16),
       (HostOp.write .oneK 0xFFFF#16 true, Instr.writeEeprom .oneK 0xFFFF#16),
       (HostOp.setVoltage 0xFFFF#16 false, Instr.setVoltageFast 0xFFFF#16),
       (HostOp.setVoltage 0xFFFF#16 true, Instr.setVoltagePersist 0xFFFF#16)] ∧
    (held (.host (.setVoltage 0xFFFF#16 true))).inflight = none ∧
    (held (.host (.setVoltage 0xFFFF#16 true))).driver = some driver0 ∧
    (held (.host (.setVoltage 0xFFFF#16 true))).agenda = [.host (.setVoltage 0xFFFF#16 true)] := by decide

theorem test_witness_TransportFailureIsPassedThrough :
    (reading [.failure ⟨2⟩]).inflight = some (.read 0b1100001#7) ∧ turnAt (reading [.failure ⟨2⟩]).agenda = true ∧ (reading [.failure ⟨2⟩]).readAnswers = [.failure ⟨2⟩] ∧
    (writing [.failure ⟨1⟩]).inflight = some (.write 0b1100001#7 [0x1A#8, 0xAA#8]) ∧
    turnAt (writing [.failure ⟨1⟩]).agenda = true ∧
    (writing [.failure ⟨1⟩]).writeAnswers = [.failure ⟨1⟩] := by decide

theorem test_witness_HostWriteReturnsSuccess :
    (writing [.success]).inflight = some (.write 0b1100001#7 [0x1A#8, 0xAA#8]) ∧
    turnAt (writing [.success]).agenda = true ∧
    (writing [.success]).writeAnswers = [.success] := by decide

theorem test_witness_DestroyEndsTheOrchestrator :
    ((held (.host .destroy)).inflight = none ∧ (held (.host .destroy)).driver = some driver0 ∧
      (held (.host .destroy)).agenda = [.host .destroy]) ∧
    ((asked (.host .read)).inflight = none ∧ (asked (.host .read)).driver = none ∧
      (asked (.host .read)).agenda = [.host .read]) := by decide

theorem test_witness_SuspendedUntilTheTransportAnswers :
    (reading []).inflight = some (.read 0b1100001#7) ∧ (reading []).readAnswers = [] ∧
    (writing []).inflight = some (.write 0b1100001#7 [0x1A#8, 0xAA#8]) ∧ (writing []).writeAnswers = [] ∧
    turnAt (reading []).agenda = true ∧ turnAt (writing []).agenda = true ∧
    turnAt [.yield, .invoke .pdOneK] = true ∧ turnAt [.host .destroy] = true ∧ turnAt [.invoke .pdOneK] = false := by decide

/-- A read and a write, each with an answer at hand. -/
theorem test_witness_HostOperationTakesOneTransaction :
    let r : State := { held (.host .read) with readAnswers := [.filled 1#8 2#8 3#8 4#8 5#8] }
    let w : State := { held (.host (.write .oneK 1#16 true)) with writeAnswers := [.success] }
    turnAt [] = true ∧
    (r.inflight = none ∧ r.driver = some driver0 ∧ r.agenda = [.host .read] ∧ HostOp.read ≠ .destroy ∧ r.readAnswers ≠ []) ∧
    (w.inflight = none ∧ w.driver = some driver0 ∧ w.agenda = [.host (.write .oneK 1#16 true)] ∧
      HostOp.write .oneK 1#16 true ≠ .destroy ∧ w.writeAnswers ≠ []) := by decide

/-- A state with one call in flight and no result meets the matching of calls and results, and steps. -/
theorem test_witness_CallsMatchResultsKept :
    (reading [.failure ⟨2⟩]).calls.length = 1 ∧ (reading [.failure ⟨2⟩]).results = [] ∧
    (reading [.failure ⟨2⟩]).inflight.isSome = true ∧ (next? (step (reading [.failure ⟨2⟩]))).isSome = true := by decide

/-- A state with a write in flight and its frame in TX meets the invariant, and steps. -/
theorem test_witness_StepKeepsInvariant :
    let s : State := { writing [.success] with tx := [(0, 0x1A#8), (1, 0xAA#8)] }
    s.Inv ∧ (next? (step s)).isSome = true := by
  refine ⟨⟨by decide, .inr (by decide), (by intro r h; cases h), ?_, ?_⟩, by decide⟩
  · intro a bytes h
    obtain ⟨rfl, rfl⟩ : a = 0b1100001#7 ∧ bytes = [0x1A#8, 0xAA#8] := by simpa [writing] using h
    decide
  · intro c h
    cases h
    exact ⟨by decide, driver0, by decide, by decide⟩

/-- A state that answers a next state and one that refuses. -/
theorem test_witness_ErrorValuesAreOpaque :
    (next? (step (reading [.failure ⟨2⟩]))).isSome = true ∧ (refusal? (step (asked (.host .read)))).isSome = true := by decide

theorem test_witness_AddressIsNotInTheFrame :
    (held (.host (.fastWrite .oneK 1#16))).inflight = none ∧
    (held (.host (.fastWrite .oneK 1#16))).agenda = [.host (.fastWrite .oneK 1#16)] := by decide

/-- Construction, a read, its turn, `destroy`, a block operation, an image: servable with no orchestrator at the start. -/
theorem test_witness_ServableStatesStepOn :
    servableAll false [.construct ⟨0⟩ 1#7, .host .read, .yield, .host .destroy, .invoke .pdOneK, .image [0x1A#8, 0xAA#8]] = true ∧
    servableAll false [.host .read] = false := by decide

end Sys2Proof.Tests
end

section
/-! PROOF. The family 10_state.md: what the operations of each unit leave unchanged, that their results depend on their
operands only, that the device address reaches no frame, and the state at reset. -/

namespace Sys2Proof.Machine

open Config (BusHandle)

/-! ### The units' frames are the encodings of the table -/

/-- Masking the operand is cutting it to 12 bits (R71). -/
theorem maskCode_eq_setWidth (d : Word16) : maskCode d = d.setWidth 12 := by
  refine BitVec.eq_of_getLsbD_eq fun i _ => ?_
  rw [maskCode_getLsbD, BitVec.getLsbD_setWidth]

/-- The FW word by concatenation is the FW word field by field (R45). -/
theorem fwWord_eq_or (p : ModeBits) (c : Code) : fwWord p c = (p.setWidth 16 <<< 12) ||| c.setWidth 16 := by
  refine BitVec.eq_of_getLsbD_eq fun i hi => ?_
  rw [fwWord_getLsbD]
  interval_cases i <;> simp

theorem fastWriteFrame_toList (m : PowerDownMode) (d : Word16) :
    (fastWriteFrame m d).toList = encodeFW (pdEncode m) (d.setWidth 12) := by
  simp [fastWriteFrame, encodeFW, hiByte, loByte, maskCode_eq_setWidth, fwWord_eq_or]

/-- Byte 0 of WR holds the selector and the mode where the layout has them (R46). -/
theorem wrByte0_eq_extract (sel : BitVec 3) (p : ModeBits) (c : Code) :
    wrByte0 sel p =
      ((sel.setWidth 24 <<< 21) ||| (p.setWidth 24 <<< 17) ||| (c.setWidth 24 <<< 4)).extractLsb' 16 8 := by
  refine BitVec.eq_of_getLsbD_eq fun i hi => ?_
  rw [wrByte0_getLsbD]
  interval_cases i <;> simp

/-- Bytes 1 and 2 of WR hold the code where the layout has it (R46). -/
theorem wrValue_eq_extract (sel : BitVec 3) (p : ModeBits) (c : Code) :
    wrValue c =
      ((sel.setWidth 24 <<< 21) ||| (p.setWidth 24 <<< 17) ||| (c.setWidth 24 <<< 4)).extractLsb' 0 16 := by
  refine BitVec.eq_of_getLsbD_eq fun i hi => ?_
  rw [wrValue_getLsbD]
  interval_cases i <;> simp

theorem hiByte_extract (w : BitVec 24) : hiByte (w.extractLsb' 0 16) = w.extractLsb' 8 8 := by
  refine BitVec.eq_of_getLsbD_eq fun i hi => ?_
  simp only [hiByte_getLsbD, BitVec.getLsbD_extractLsb', hi, show 8 + i < 16 by omega, decide_true, Bool.true_and, zero_add]

theorem loByte_extract (w : BitVec 24) : loByte (w.extractLsb' 0 16) = w.extractLsb' 0 8 := by
  refine BitVec.eq_of_getLsbD_eq fun i hi => ?_
  simp only [loByte_getLsbD, BitVec.getLsbD_extractLsb', hi, show i < 16 by omega, decide_true, Bool.true_and]

theorem writeFrame_toList (m : PowerDownMode) (d : Word16) (persist : Bool) :
    (writeFrame m d persist).toList = encodeWR (wrSelector persist) (pdEncode m) (d.setWidth 12) := by
  simp only [writeFrame, maskCode_eq_setWidth, wrByte0_eq_extract (wrSelector persist) (pdEncode m) (d.setWidth 12),
    wrValue_eq_extract (wrSelector persist) (pdEncode m) (d.setWidth 12), hiByte_extract, loByte_extract]
  rfl

/-- `set_voltage` emits the frame of the operation it delegates to (R70, R77). -/
theorem setVoltagePorts_frame (d : Word16) (persist : Bool) :
    (setVoltagePorts d persist).frame =
      if persist then (writeFrame .normal d true).toList else (fastWriteFrame .normal d).toList := by
  cases persist <;> rfl

/-! ### What each instruction does to the state

The meaning of every row as one chain of updates: the input ports it drives, then what it takes. -/

section execEquations
variable (s : State)

@[simp] theorem exec_fastWrite (m : PowerDownMode) (d : Word16) :
    exec (.fastWrite m d) s =
      .next ((s.setInp (s.inp.driveFast m d)).setTx (spaceOfBytes (encode (.fastWrite m d)))) := by
  simp only [exec, execFastWrite, State.runFast_eq, fastWriteFrame_toList, encode]

@[simp] theorem exec_writeReg (m : PowerDownMode) (d : Word16) :
    exec (.writeReg m d) s =
      .next ((s.setInp (s.inp.driveWrite m d false)).setTx (spaceOfBytes (encode (.writeReg m d)))) := by
  simp only [exec, execWriteReg, State.runWrite_eq, writeFrame_toList, encode]
  rfl

@[simp] theorem exec_writeEeprom (m : PowerDownMode) (d : Word16) :
    exec (.writeEeprom m d) s =
      .next ((s.setInp (s.inp.driveWrite m d true)).setTx (spaceOfBytes (encode (.writeEeprom m d)))) := by
  simp only [exec, execWriteEeprom, State.runWrite_eq, writeFrame_toList, encode]
  rfl

@[simp] theorem exec_setVoltageFast (d : Word16) :
    exec (.setVoltageFast d) s =
      .next ((s.setInp (s.inp.driveVoltage d false)).setTx (spaceOfBytes (encode (.setVoltageFast d)))) := by
  simp only [exec, execSetVoltageFast, State.runVoltage_eq, setVoltagePorts_frame, fastWriteFrame_toList, encode]
  rfl

@[simp] theorem exec_setVoltagePersist (d : Word16) :
    exec (.setVoltagePersist d) s =
      .next ((s.setInp (s.inp.driveVoltage d true)).setTx (spaceOfBytes (encode (.setVoltagePersist d)))) := by
  simp only [exec, execSetVoltagePersist, State.runVoltage_eq, setVoltagePorts_frame, writeFrame_toList, encode]
  rfl

@[simp] theorem exec_regStatus (b0 b1 b2 : Byte) :
    exec (.regStatus b0 b1 b2) s =
      .next ((s.setInp (s.inp.driveRegister b0 b1 b2)).setReg (some (decodeRegister b0 b1 b2))) := by
  simp only [exec, execRegStatus, State.runRegister_eq]

@[simp] theorem exec_eepromStatus (b3 b4 : Byte) :
    exec (.eepromStatus b3 b4) s = .next ((s.setInp (s.inp.driveEeprom b3 b4)).setEe (some (decodeEeprom b3 b4))) := by
  simp only [exec, execEepromStatus, State.runEeprom_eq]

@[simp] theorem exec_readReply (b0 b1 b2 b3 b4 : Byte) :
    exec (.readReply b0 b1 b2 b3 b4) s =
      .next (((s.setInp ((s.inp.driveRegister b0 b1 b2).driveEeprom b3 b4)).setReg (some (decodeRegister b0 b1 b2))).setEe
        (some (decodeEeprom b3 b4))) := by
  simp only [exec, execReadReply, State.runReply_eq]

@[simp] theorem exec_pdNormal : exec .pdNormal s = .next (s.runVariant .normal 0b00#2) := rfl

@[simp] theorem exec_pdOneK : exec .pdOneK s = .next (s.runVariant .oneK 0b01#2) := rfl

@[simp] theorem exec_pdOneHundredK : exec .pdOneHundredK s = .next (s.runVariant .oneHundredK 0b10#2) := rfl

@[simp] theorem exec_pdFiveHundredK : exec .pdFiveHundredK s = .next (s.runVariant .fiveHundredK 0b11#2) := rfl

@[simp] theorem exec_pdEncode (m : PowerDownMode) : exec (.pdEncode m) s = .next (s.runPdEncode m) := rfl

@[simp] theorem exec_pdDecode (b : ModeBits) : exec (.pdDecode b) s = .next (s.runPdDecode b) := rfl

end execEquations

/-! ### What the updates and the drives leave unchanged -/

section frames
variable (s t : State)

@[simp] theorem State.sameHost_refl : s.SameHost s := ⟨rfl, rfl, rfl, rfl, rfl, rfl, rfl⟩
@[simp] theorem State.sameHost_setInp (x : Inputs) : s.SameHost (t.setInp x) ↔ s.SameHost t := Iff.rfl
@[simp] theorem State.sameHost_setTx (x : Memory) : s.SameHost (t.setTx x) ↔ s.SameHost t := Iff.rfl
@[simp] theorem State.sameHost_setReg (x : Option RegisterStatus) : s.SameHost (t.setReg x) ↔ s.SameHost t := Iff.rfl
@[simp] theorem State.sameHost_setEe (x : Option EepromStatus) : s.SameHost (t.setEe x) ↔ s.SameHost t := Iff.rfl
@[simp] theorem State.sameHost_setPdBits (x : Option ModeBits) : s.SameHost (t.setPdBits x) ↔ s.SameHost t := Iff.rfl
@[simp] theorem State.sameHost_setPdMode (x : Option PowerDownMode) : s.SameHost (t.setPdMode x) ↔ s.SameHost t := Iff.rfl

@[simp] theorem State.sameViews_refl : s.SameViews s := ⟨rfl, rfl⟩
@[simp] theorem State.sameViews_setInp (x : Inputs) : s.SameViews (t.setInp x) ↔ s.SameViews t := Iff.rfl
@[simp] theorem State.sameViews_setTx (x : Memory) : s.SameViews (t.setTx x) ↔ s.SameViews t := Iff.rfl
@[simp] theorem State.sameViews_setPdBits (x : Option ModeBits) : s.SameViews (t.setPdBits x) ↔ s.SameViews t := Iff.rfl
@[simp] theorem State.sameViews_setPdMode (x : Option PowerDownMode) : s.SameViews (t.setPdMode x) ↔ s.SameViews t := Iff.rfl

@[simp] theorem State.sameCodec_refl : s.SameCodec s := ⟨rfl, rfl⟩
@[simp] theorem State.sameCodec_setInp (x : Inputs) : s.SameCodec (t.setInp x) ↔ s.SameCodec t := Iff.rfl
@[simp] theorem State.sameCodec_setTx (x : Memory) : s.SameCodec (t.setTx x) ↔ s.SameCodec t := Iff.rfl
@[simp] theorem State.sameCodec_setReg (x : Option RegisterStatus) : s.SameCodec (t.setReg x) ↔ s.SameCodec t := Iff.rfl
@[simp] theorem State.sameCodec_setEe (x : Option EepromStatus) : s.SameCodec (t.setEe x) ↔ s.SameCodec t := Iff.rfl

end frames

section driveFast
variable (p q : Inputs) (m : PowerDownMode) (d : Word16)
@[simp] theorem Inputs.driveFast_wrMode : (p.driveFast m d).wrMode = p.wrMode := rfl
@[simp] theorem Inputs.driveFast_wrCode : (p.driveFast m d).wrCode = p.wrCode := rfl
@[simp] theorem Inputs.driveFast_wrPersist : (p.driveFast m d).wrPersist = p.wrPersist := rfl
@[simp] theorem Inputs.driveFast_svCode : (p.driveFast m d).svCode = p.svCode := rfl
@[simp] theorem Inputs.driveFast_svPersist : (p.driveFast m d).svPersist = p.svPersist := rfl
@[simp] theorem Inputs.driveFast_rx : (p.driveFast m d).rx = p.rx := rfl
@[simp] theorem Inputs.sameCodecPorts_driveFast : p.SameCodecPorts (q.driveFast m d) ↔ p.SameCodecPorts q := Iff.rfl
end driveFast

section driveWrite
variable (p q : Inputs) (m : PowerDownMode) (d : Word16) (b : Bool)
@[simp] theorem Inputs.driveWrite_fwMode : (p.driveWrite m d b).fwMode = p.fwMode := rfl
@[simp] theorem Inputs.driveWrite_fwCode : (p.driveWrite m d b).fwCode = p.fwCode := rfl
@[simp] theorem Inputs.driveWrite_svCode : (p.driveWrite m d b).svCode = p.svCode := rfl
@[simp] theorem Inputs.driveWrite_svPersist : (p.driveWrite m d b).svPersist = p.svPersist := rfl
@[simp] theorem Inputs.driveWrite_rx : (p.driveWrite m d b).rx = p.rx := rfl
@[simp] theorem Inputs.sameCodecPorts_driveWrite : p.SameCodecPorts (q.driveWrite m d b) ↔ p.SameCodecPorts q := Iff.rfl
end driveWrite

section driveVoltage
variable (p q : Inputs) (d : Word16) (b : Bool)
@[simp] theorem Inputs.driveVoltage_fwMode : (p.driveVoltage d b).fwMode = p.fwMode := rfl
@[simp] theorem Inputs.driveVoltage_fwCode : (p.driveVoltage d b).fwCode = p.fwCode := rfl
@[simp] theorem Inputs.driveVoltage_wrMode : (p.driveVoltage d b).wrMode = p.wrMode := rfl
@[simp] theorem Inputs.driveVoltage_wrCode : (p.driveVoltage d b).wrCode = p.wrCode := rfl
@[simp] theorem Inputs.driveVoltage_wrPersist : (p.driveVoltage d b).wrPersist = p.wrPersist := rfl
@[simp] theorem Inputs.driveVoltage_rx : (p.driveVoltage d b).rx = p.rx := rfl
@[simp] theorem Inputs.sameCodecPorts_driveVoltage : p.SameCodecPorts (q.driveVoltage d b) ↔ p.SameCodecPorts q := Iff.rfl
end driveVoltage

section driveReply
variable (p q : Inputs) (b0 b1 b2 b3 b4 : Byte)
@[simp] theorem Inputs.driveRegister_rxB3 : (p.driveRegister b0 b1 b2).rxB3 = p.rxB3 := rfl
@[simp] theorem Inputs.driveRegister_rxB4 : (p.driveRegister b0 b1 b2).rxB4 = p.rxB4 := rfl
@[simp] theorem Inputs.driveEeprom_rxB0 : (p.driveEeprom b3 b4).rxB0 = p.rxB0 := rfl
@[simp] theorem Inputs.driveEeprom_rxB1 : (p.driveEeprom b3 b4).rxB1 = p.rxB1 := rfl
@[simp] theorem Inputs.driveEeprom_rxB2 : (p.driveEeprom b3 b4).rxB2 = p.rxB2 := rfl
@[simp] theorem Inputs.sameEncoderPorts_driveRegister :
    p.SameEncoderPorts (q.driveRegister b0 b1 b2) ↔ p.SameEncoderPorts q := Iff.rfl
@[simp] theorem Inputs.sameEncoderPorts_driveEeprom :
    p.SameEncoderPorts (q.driveEeprom b3 b4) ↔ p.SameEncoderPorts q := Iff.rfl
@[simp] theorem Inputs.sameCodecPorts_driveRegister :
    p.SameCodecPorts (q.driveRegister b0 b1 b2) ↔ p.SameCodecPorts q := Iff.rfl
@[simp] theorem Inputs.sameCodecPorts_driveEeprom :
    p.SameCodecPorts (q.driveEeprom b3 b4) ↔ p.SameCodecPorts q := Iff.rfl
end driveReply

section driveCodec
variable (p q : Inputs) (m : PowerDownMode) (b : ModeBits)
@[simp] theorem Inputs.sameCodecPorts_refl : p.SameCodecPorts p := ⟨rfl, rfl⟩
@[simp] theorem Inputs.sameEncoderPorts_refl : p.SameEncoderPorts p := ⟨rfl, rfl, rfl, rfl, rfl, rfl, rfl⟩
@[simp] theorem Inputs.rx_codecPorts : Inputs.rx { p with pdeMode := m, pddBits := b } = p.rx := rfl
@[simp] theorem Inputs.sameEncoderPorts_codecPorts :
    p.SameEncoderPorts { q with pdeMode := m, pddBits := b } ↔ p.SameEncoderPorts q := Iff.rfl
end driveCodec

/-! ### The frame of the emitted rows -/

/-- A space filled from index `k` on reads as the list of its bytes. -/
theorem Memory.read_zipIdx (bs : List Byte) (k a : Nat) :
    Memory.read ((bs.zipIdx k).map fun p => (p.2, p.1)) (k + a) = bs[a]? := by
  induction bs generalizing k a with
  | nil => rfl
  | cons b bs ih =>
    cases a with
    | zero => simp [Memory.read]
    | succ a => simpa [Memory.read, Nat.add_assoc, Nat.add_comm 1 a] using ih (k + 1) a

/-- A frame reads, at every index, as its list of bytes, and as no byte past its end. -/
@[simp] theorem read_spaceOfBytes (bs : List Byte) (a : Nat) : (spaceOfBytes bs).read a = bs[a]? := by
  simpa [spaceOfBytes] using Memory.read_zipIdx bs 0 a

/-- Settles O27: each emitted row drives its own group and refills TX with its encoding. -/
theorem encoderFrame : Obligations.EncoderFrame := by
  unfold Obligations.EncoderFrame
  intro m d i s t hi h
  simp only [List.mem_cons, List.not_mem_nil, or_false] at hi
  rcases hi with rfl | rfl | rfl | rfl | rfl
  · cases h.symm.trans (exec_fastWrite s m d)
    simp [Instr.row]
  · cases h.symm.trans (exec_writeReg s m d)
    simp [Instr.row]
  · cases h.symm.trans (exec_writeEeprom s m d)
    simp [Instr.row]
  · cases h.symm.trans (exec_setVoltageFast s d)
    simp [Instr.row]
  · cases h.symm.trans (exec_setVoltagePersist s d)
    simp [Instr.row]

/-! ### The frames of the consumed rows and of the PD rows -/

/-- Settles O37: each decoder row drives its own reply ports and takes its own views. -/
theorem decoderFrame : Obligations.DecoderFrame := by
  unfold Obligations.DecoderFrame
  intro b0 b1 b2 b3 b4 s t
  refine ⟨fun h => ?_, fun h => ?_, fun h => ?_⟩
  · cases h.symm.trans (exec_regStatus s b0 b1 b2)
    simp
  · cases h.symm.trans (exec_eepromStatus s b3 b4)
    simp
  · cases h.symm.trans (exec_readReply s b0 b1 b2 b3 b4)
    simp

/-- A variant's row, whatever the variant and the code, leaves all but the codec's ports and results. -/
theorem State.runVariant_frame (s : State) (m : PowerDownMode) (b : ModeBits) :
    s.SameHost (s.runVariant m b) ∧ s.SameViews (s.runVariant m b) ∧ s.inp.SameEncoderPorts (s.runVariant m b).inp ∧
    (s.runVariant m b).inp.rx = s.inp.rx ∧ (s.runVariant m b).tx = s.tx := by
  simp [State.runVariant_eq]

/-- Settles O38: the four variant rows are one operation; the two directions alone drive one port and take one result each. -/
theorem codecFrame : Obligations.CodecFrame := by
  unfold Obligations.CodecFrame
  intro m b i s t hi h
  simp only [List.mem_cons, List.not_mem_nil, or_false] at hi
  rcases hi with rfl | rfl | rfl | rfl | rfl | rfl
  · cases h.symm.trans (exec_pdNormal s)
    simp [State.runVariant_frame]
  · cases h.symm.trans (exec_pdOneK s)
    simp [State.runVariant_frame]
  · cases h.symm.trans (exec_pdOneHundredK s)
    simp [State.runVariant_frame]
  · cases h.symm.trans (exec_pdFiveHundredK s)
    simp [State.runVariant_frame]
  · cases h.symm.trans (exec_pdEncode s m)
    simp [State.runPdEncode_eq]
  · cases h.symm.trans (exec_pdDecode s b)
    simp [State.runPdDecode_eq]

/-! ### Results depend on the operands only -/

/-- Settles O40: what a row takes is, in its equation, a term in which no state occurs. -/
theorem operationsArePure : Obligations.OperationsArePure := by
  unfold Obligations.OperationsArePure
  intro i s s' t t' h h'
  cases i
  case fastWrite | writeReg | writeEeprom | setVoltageFast | setVoltagePersist =>
    simp only [exec_fastWrite, exec_writeReg, exec_writeEeprom, exec_setVoltageFast, exec_setVoltagePersist,
      Host.Outcome.next.injEq] at h h'
    subst h h'
    simp [Instr.row]
  case readReply | regStatus | eepromStatus =>
    simp only [exec_readReply, exec_regStatus, exec_eepromStatus, Host.Outcome.next.injEq] at h h'
    subst h h'
    simp [Instr.row]
  case pdNormal | pdOneK | pdOneHundredK | pdFiveHundredK | pdEncode | pdDecode =>
    simp only [exec_pdNormal, exec_pdOneK, exec_pdOneHundredK, exec_pdFiveHundredK, exec_pdEncode, exec_pdDecode,
      State.runVariant_eq, State.runPdEncode_eq, State.runPdDecode_eq, Host.Outcome.next.injEq] at h h'
    subst h h'
    simp [Instr.row]

/-! ### The device address -/

/-- With nothing in flight a host operation starts on the live orchestrator. -/
theorem step_of_host {s : State} {d : Driver} {op : HostOp} {rest : List Request} (hn : s.inflight = none)
    (hd : s.driver = some d) (ha : s.agenda = .host op :: rest) :
    step s = .next (startHostOp op d (s.setAgenda rest)) := by
  simp [step_of_idle hn ha, serve, runHostOp, hd]

/-- Two states have the same ports, TX, views and results, and the call in flight in the one goes to `a'` in the other
where it goes to `a` in the one (R39). -/
def State.SameButAddress (a a' : Addr7) (t t' : State) : Prop :=
  t'.inp = t.inp ∧ t'.tx = t.tx ∧ t'.reg = t.reg ∧ t'.ee = t.ee ∧ t'.results = t.results ∧
  (∀ bytes, t.inflight = some (.write a bytes) → t'.inflight = some (.write a' bytes)) ∧
  (t.inflight = some (.read a) → t'.inflight = some (.read a'))

section address
variable (s : State) (bus : BusHandle) (a a' : Addr7)

/-- One TX sent by orchestrators with two addresses: the calls carry the same bytes. -/
theorem sendTx_sameButAddress (x x' : Option Driver) :
    State.SameButAddress a a' ((s.setDriver x).sendTx ⟨bus, a⟩) ((s.setDriver x').sendTx ⟨bus, a'⟩) := by
  simp [State.SameButAddress, State.sendTx, State.issue_eq]

/-- A host operation never reads the address but to name it in its call: an encoder unit drives and takes the same beside any
orchestrator, so each write hands over one TX. -/
theorem startHostOp_sameButAddress (op : HostOp) (x x' : Option Driver) (hn : s.inflight = none) :
    State.SameButAddress a a' (startHostOp op ⟨bus, a⟩ (s.setDriver x)) (startHostOp op ⟨bus, a'⟩ (s.setDriver x')) := by
  cases op with
  | read => simp [State.SameButAddress, startHostOp, startRead, State.issue_eq]
  | fastWrite m d => exact sendTx_sameButAddress (s.runFast m d) bus a a' x x'
  | write m d p => exact sendTx_sameButAddress (s.runWrite m d p) bus a a' x x'
  | setVoltage d p => exact sendTx_sameButAddress (s.runVoltage d p) bus a a' x x'
  | destroy => simp [State.SameButAddress, startHostOp, runDestroy, hn]

end address

/-- Settles O56: both orchestrators start the same operation, on states that differ in the orchestrator only. -/
theorem addressIsNotInTheFrame : Obligations.AddressIsNotInTheFrame := by
  unfold Obligations.AddressIsNotInTheFrame
  intro s bus a a' op rest hn ha
  exact ⟨_, _, step_of_host hn rfl ha, step_of_host hn rfl ha,
    startHostOp_sameButAddress (s.setAgenda rest) bus a a' op (some ⟨bus, a⟩) (some ⟨bus, a'⟩) hn⟩

/-! ### The state at reset -/

/-- Settles O1: the fields of the reset state as they are written out. -/
theorem resetHoldsNothing : Obligations.ResetHoldsNothing := ⟨rfl, rfl, rfl, rfl, rfl, rfl, rfl⟩

/-- Settles O53: TX is empty, and there is no view, no call and no transaction to speak of. -/
theorem resetMeetsInvariant : Obligations.ResetMeetsInvariant where
  txCanonical := rfl
  txFrame := .inl rfl
  regAgrees _ h := nomatch h
  callsEmittable _ _ h := nomatch h
  inflightOwned _ h := nomatch h

end Sys2Proof.Machine
end

section
/-! PROOF. The family 20_memory.md: an evaluation of the block is idempotent and commutes with the turn of a suspended bus
transaction, the request at the head of the agenda is what a step serves, and a reply is five bytes. -/

namespace Sys2Proof.Machine

/-! ### An evaluation of the block as a function of the state -/

/-- The state an evaluation goes on to: every operation goes on to one (R72, R82; `exec_eq_evaluate`), so the second arm is never
taken. -/
def evaluate (i : Instr) (s : State) : State :=
  match exec i s with
  | .next t => t
  | _ => s

theorem exec_eq_evaluate (i : Instr) (s : State) : exec i s = .next (evaluate i s) := by
  cases i <;> rfl

section evaluate
variable (i : Instr) (s : State)

/-- An operation writes nothing of the orchestrator, of the requests or of the transport. -/
theorem evaluate_sameHost : s.SameHost (evaluate i s) := by
  cases i <;> exact s.sameHost_refl

/-- What an operation drives and takes is given by its operands, so a second evaluation writes what is there. -/
theorem evaluate_evaluate : evaluate i (evaluate i s) = evaluate i s := by
  cases i <;> rfl

/-! An operation does not read what the host's side writes either. -/

theorem evaluate_setAgenda (x : List Request) : evaluate i (s.setAgenda x) = (evaluate i s).setAgenda x := by
  cases i <;> rfl

theorem evaluate_setWriteAnswers (x : List WriteAnswer) :
    evaluate i (s.setWriteAnswers x) = (evaluate i s).setWriteAnswers x := by
  cases i <;> rfl

theorem evaluate_setReadAnswers (x : List ReadAnswer) :
    evaluate i (s.setReadAnswers x) = (evaluate i s).setReadAnswers x := by
  cases i <;> rfl

theorem evaluate_finish (r : HostResult) : evaluate i (s.finish r) = (evaluate i s).finish r := by
  cases i <;> rfl

end evaluate

/-- Settles O41: the state taken is the one evaluation's, and evaluating there again changes nothing. -/
theorem repeatingAnOperationChangesNothing : Obligations.RepeatingAnOperationChangesNothing := by
  unfold Obligations.RepeatingAnOperationChangesNothing
  intro i s t h
  cases h.symm.trans (exec_eq_evaluate i s)
  rw [exec_eq_evaluate, evaluate_evaluate]

/-! ### An evaluation beside a suspended transaction -/

/-- Two states differ at most in the reply ports and the status views: what a decoder's row writes and a read that ends writes
too. -/
def State.SameButReply (s t : State) : Prop :=
  s.SameHost t ∧ s.tx = t.tx ∧ s.SameCodec t ∧ s.inp.SameEncoderPorts t.inp ∧ s.inp.SameCodecPorts t.inp

theorem State.sameButReply_refl (s : State) : s.SameButReply s := by simp [State.SameButReply]

/-- Ending an operation with one result keeps two states as alike as they are. -/
theorem State.SameButReply.finish {s t : State} (h : s.SameButReply t) (r : HostResult) :
    (s.finish r).SameButReply (t.finish r) := by
  obtain ⟨⟨hdriver, -, hcalls, hresults, hagenda, hwrite, hread⟩, hblock⟩ := h
  exact ⟨⟨hdriver, rfl, hcalls, congrArg (· ++ [r]) hresults, hagenda, hwrite, hread⟩, hblock⟩

section turn
variable (i : Instr) (s : State)

/-- A reply decoded after an evaluation or before it: the two orders meet in the ports and views of the reply, and only a decoder's
row can tell them apart. -/
theorem runReply_evaluate (b0 b1 b2 b3 b4 : Byte) :
    ((evaluate i s).runReply b0 b1 b2 b3 b4).SameButReply (evaluate i (s.runReply b0 b1 b2 b3 b4)) := by
  cases i
  case readReply | regStatus | eepromStatus =>
    exact ⟨⟨rfl, rfl, rfl, rfl, rfl, rfl, rfl⟩, rfl, ⟨rfl, rfl⟩, ⟨rfl, rfl, rfl, rfl, rfl, rfl, rfl⟩, rfl, rfl⟩
  all_goals exact State.sameButReply_refl _

/-- A write's turn touches the host's side only, so it commutes with an evaluation. -/
theorem resumeWrite_evaluate : resumeWrite (evaluate i s) = evaluate i (resumeWrite s) := by
  obtain ⟨-, -, -, -, -, ha, -⟩ := evaluate_sameHost i s
  rcases resumeWrite_cases s with ⟨h, hs⟩ | ⟨rest, h, hs⟩ | ⟨e, rest, h, hs⟩
  · rw [hs, resumeWrite, ha, h]
  · rw [hs, evaluate_finish, evaluate_setWriteAnswers, resumeWrite, ha, h]
  · rw [hs, evaluate_finish, evaluate_setWriteAnswers, resumeWrite, ha, h]

/-- A filled read decodes the five bytes and ends with their pair. -/
theorem resumeRead_of_filled {s : State} {b0 b1 b2 b3 b4 : Byte} {rest : List ReadAnswer}
    (h : s.readAnswers = .filled b0 b1 b2 b3 b4 :: rest) :
    resumeRead s = ((s.setReadAnswers rest).runReply b0 b1 b2 b3 b4).finish
      (.status (decodeRegister b0 b1 b2) (decodeEeprom b3 b4)) := by
  simpa [h] using resumeRead_cases s

/-- A read's turn commutes with an evaluation but for the reply ports and the views. -/
theorem resumeRead_evaluate : (resumeRead (evaluate i s)).SameButReply (evaluate i (resumeRead s)) := by
  obtain ⟨-, -, -, -, -, -, ha⟩ := evaluate_sameHost i s
  rcases resumeRead_cases s with ⟨h, hs⟩ | ⟨b0, b1, b2, b3, b4, rest, h, hs⟩ | ⟨e, rest, h, hs⟩
  · rw [hs, resumeRead, ha, h]
    exact State.sameButReply_refl _
  · rw [hs, evaluate_finish, resumeRead_of_filled (ha.trans h), ← evaluate_setReadAnswers]
    exact (runReply_evaluate i _ b0 b1 b2 b3 b4).finish _
  · rw [hs, evaluate_finish, evaluate_setReadAnswers, resumeRead, ha, h]
    exact State.sameButReply_refl _

/-- The turn of whatever is suspended commutes with an evaluation but for the reply ports and the views. -/
theorem takeTurn_evaluate : (evaluate i s).takeTurn.SameButReply (evaluate i s.takeTurn) := by
  obtain ⟨-, hi, -⟩ := evaluate_sameHost i s
  rcases h : s.inflight with _ | ⟨a, bytes⟩ | a
  · simpa only [State.takeTurn, hi, h] using State.sameButReply_refl _
  · simpa only [State.takeTurn, hi, h, resume, resumeWrite_evaluate] using State.sameButReply_refl _
  · simpa only [State.takeTurn, hi, h, resume] using resumeRead_evaluate i s

end turn

/-! ### The request at the head of the agenda -/

section request
variable {s : State} {rest : List Request}

/-- A request to evaluate the block is served whatever is in flight. -/
theorem step_of_invoke {i : Instr} (ha : s.agenda = .invoke i :: rest) :
    step s = .next (evaluate i (s.setAgenda rest)) :=
  (step_of_free rfl ha).trans (exec_eq_evaluate i _)

theorem step_of_yield (ha : s.agenda = .yield :: rest) : step s = .next (s.setAgenda rest).takeTurn :=
  step_of_free rfl ha

theorem step_of_rowImage {row : Row} {bytes : List Byte} (ha : s.agenda = .rowImage row bytes :: rest) :
    step s = runDecoded (decodeRow row bytes) (s.setAgenda rest) :=
  step_of_free rfl ha

theorem step_of_image {bytes : List Byte} (ha : s.agenda = .image bytes :: rest) :
    step s = runDecoded (decodeImage bytes) (s.setAgenda rest) :=
  step_of_free rfl ha

end request

/-- A turn neither reads nor writes the host's requests. -/
theorem State.takeTurn_setAgenda (s : State) (x : List Request) :
    (s.setAgenda x).takeTurn = s.takeTurn.setAgenda x := by
  rcases h : s.inflight with _ | ⟨a, bytes⟩ | a
  · simp [State.takeTurn, h]
  · rcases hw : s.writeAnswers with _ | ⟨_ | e, rest⟩ <;> simp [State.takeTurn, resume, resumeWrite, h, hw] <;> rfl
  · rcases hr : s.readAnswers with _ | ⟨_ | e, rest⟩ <;> simp [State.takeTurn, resume, resumeRead, h, hr] <;> rfl

/-- Settles O50: with both requests used up, one order is the turn after the evaluation and the other the evaluation after the
turn. -/
theorem evaluationsCommuteWithTheTransaction : Obligations.EvaluationsCommuteWithTheTransaction := by
  unfold Obligations.EvaluationsCommuteWithTheTransaction
  intro s i rest
  obtain ⟨-, inflight, -⟩ := evaluate_sameHost i s
  have evaluated : step (s.setAgenda (.invoke i :: .yield :: rest)) = .next ((evaluate i s).setAgenda (.yield :: rest)) :=
    (step_of_invoke rfl).trans (congrArg _ (evaluate_setAgenda i s _))
  have turned : step (s.setAgenda (.yield :: .invoke i :: rest)) = .next (s.takeTurn.setAgenda (.invoke i :: rest)) :=
    (step_of_yield rfl).trans (congrArg _ (s.takeTurn_setAgenda _))
  have alike := takeTurn_evaluate i (s.setAgenda rest)
  rw [evaluate_setAgenda, State.takeTurn_setAgenda s rest] at alike
  exact ⟨_, _, _, _, evaluated, step_of_yield rfl, turned, step_of_invoke rfl, inflight, alike⟩

/-- Settles O2: no form of the request needs the orchestrator, and bytes run as what their decoder reads. -/
theorem stepRunsTheDecodedInstruction : Obligations.StepRunsTheDecodedInstruction := by
  unfold Obligations.StepRunsTheDecodedInstruction
  intro s rest i
  refine ⟨fun ha => step_of_free rfl ha, fun row bytes ha hd => ?_, fun bytes ha hd => ?_⟩
  · rw [step_of_rowImage ha, hd]
    rfl
  · rw [step_of_image ha, hd]
    rfl

theorem instr?_eq_some_iff {r : Decoded} {i : Instr} : r.instr? = some i ↔ r = .ok i := by
  cases r <;> simp [Decoded.instr?]

/-- Settles O3: the placed word is an image at the head of the agenda, and the step leaves the agenda it was placed on. -/
theorem placedWordRunsNext : Obligations.PlacedWordRunsNext := by
  unfold Obligations.PlacedWordRunsNext
  intro s nbits w i h
  obtain ⟨-, -, image⟩ := stepRunsTheDecodedInstruction (s.withFetchWord nbits w) s.agenda i
  exact image _ rfl (instr?_eq_some_iff.1 h)

/-- Settles O5: the decoder's reason is the refusal's. -/
theorem badImagesAreRefused : Obligations.BadImagesAreRefused := by
  unfold Obligations.BadImagesAreRefused
  intro s rest e
  refine ⟨fun row bytes ha hd => ?_, fun bytes ha hd => ?_⟩
  · rw [step_of_rowImage ha, hd, runDecoded]
  · rw [step_of_image ha, hd, runDecoded]

/-! ### The length of a reply -/

/-- Settles O11: five bytes are the one arm that reads, and every other length falls to the row's last arm. -/
theorem replyIsFiveBytes : Obligations.ReplyIsFiveBytes := by
  unfold Obligations.ReplyIsFiveBytes
  intro bytes
  refine ⟨fun h => ?_, fun h => ?_⟩
  · rw [decodeRow]
    rintro b0 b1 b2 b3 b4 rfl
    exact h rfl
  · obtain ⟨b0, b1, b2, b3, b4, rfl⟩ : ∃ b0 b1 b2 b3 b4, [b0, b1, b2, b3, b4] = bytes := by
      simpa [List.length_eq_succ_iff] using h
    exact ⟨b0, b1, b2, b3, b4, rfl, rfl⟩

end Sys2Proof.Machine
end

section
/-! PROOF. The family 30_encoding.md: the layouts read back field by field, so the decoders and the encoder invert each other; the
opcode table admits exactly the lengths that decode; what the emitted rows take into TX is their encoding, and no step leaves the
frames, views and transactions that the invariant allows. -/

namespace Sys2Proof.Machine

/-! ### The fields of a frame determine it -/

@[simp] theorem pdEncode_pdDecode (b : ModeBits) : pdEncode (pdDecode b) = b := by
  revert b
  decide

theorem fwCodeField_getLsbD (b0 b1 : Byte) (i : Nat) :
    (fwCodeField b0 b1).getLsbD i = if i < 8 then b1.getLsbD i else decide (i < 12) && b0.getLsbD (i - 8) := by
  refine (getLsbD_append_at (b0.extractLsb' 0 4) b1 i rfl).trans ?_
  split
  · rfl
  · simp [show i - 8 < 4 ↔ i < 12 by omega]

theorem wrCodeField_getLsbD (b1 b2 : Byte) (i : Nat) :
    (wrCodeField b1 b2).getLsbD i = if i < 4 then b2.getLsbD (4 + i) else b1.getLsbD (i - 4) := by
  refine (getLsbD_append_at b1 (b2.extractLsb' 4 4) i rfl).trans ?_
  split <;> simp [*]

/-- The constant-zero positions of a full-write frame, bit by bit (R55). -/
theorem writeZeroBits_iff (b0 b2 : Byte) :
    writeZeroBits b0 b2 = true ↔
      (b0[3] = false ∧ b0[4] = false) ∧ b0[0] = false ∧
      b2[0] = false ∧ b2[1] = false ∧ b2[2] = false ∧ b2[3] = false := by
  simp [writeZeroBits, BitVec.eq_of_getLsbD_eq_iff, Nat.forall_lt_succ_right, Nat.le_one_iff_eq_zero_or_eq_one, and_assoc]

/-- Two bytes are the FW word of a mode and a code exactly when their fields are the selector `00`, the mode and the code
(R45). -/
theorem encodeFW_eq_iff (p : ModeBits) (c : Code) (b0 b1 : Byte) :
    encodeFW p c = [b0, b1] ↔
      b0.extractLsb' 6 2 = Config.selFast ∧ fwModeField b0 = p ∧ fwCodeField b0 b1 = c := by
  constructor
  · rintro ⟨⟩
    refine ⟨?_, ?_, ?_⟩ <;> refine BitVec.eq_of_getLsbD_eq fun i hi => ?_
    · interval_cases i <;> simp [Config.selFast]
    · interval_cases i <;> simp [fwModeField]
    · rw [fwCodeField_getLsbD]
      interval_cases i <;> simp
  · rintro ⟨hs, rfl, rfl⟩
    have h6 : b0[6] = false := by simpa using congrArg (·[0]) hs
    have h7 : b0[7] = false := by simpa using congrArg (·[1]) hs
    simp only [encodeFW, List.cons.injEq, and_true]
    constructor <;> refine BitVec.eq_of_getLsbD_eq fun i hi => ?_ <;>
      simp only [BitVec.getLsbD_extractLsb', BitVec.getLsbD_or, BitVec.getLsbD_setWidth, fwCodeField_getLsbD]
    · interval_cases i <;> simp [fwModeField, h6, h7]
    · interval_cases i <;> simp

/-- Three bytes are the WR word of a selector, a mode and a code exactly when their fields are these and the constant-zero
positions are 0 (R46, R55). -/
theorem encodeWR_eq_iff (sel : BitVec 3) (p : ModeBits) (c : Code) (b0 b1 b2 : Byte) :
    encodeWR sel p c = [b0, b1, b2] ↔
      b0.extractLsb' 5 3 = sel ∧ writeZeroBits b0 b2 = true ∧ wrModeField b0 = p ∧ wrCodeField b1 b2 = c := by
  constructor
  · rintro ⟨⟩
    refine ⟨?_, ?_, ?_, ?_⟩
    · refine BitVec.eq_of_getLsbD_eq fun i hi => ?_
      interval_cases i <;> simp
    · simp [writeZeroBits_iff]
    · refine BitVec.eq_of_getLsbD_eq fun i hi => ?_
      interval_cases i <;> simp [wrModeField]
    · refine BitVec.eq_of_getLsbD_eq fun i hi => ?_
      rw [wrCodeField_getLsbD]
      interval_cases i <;> simp
  · rintro ⟨rfl, hz, rfl, rfl⟩
    obtain ⟨⟨h3, h4⟩, h0, hlow⟩ := (writeZeroBits_iff b0 b2).1 hz
    simp only [encodeWR, List.cons.injEq, and_true]
    refine ⟨?_, ?_, ?_⟩ <;> refine BitVec.eq_of_getLsbD_eq fun i hi => ?_ <;>
      simp only [BitVec.getLsbD_extractLsb', BitVec.getLsbD_or, BitVec.getLsbD_shiftLeft, BitVec.getLsbD_setWidth,
        wrCodeField_getLsbD]
    · interval_cases i <;> simp [wrModeField, h0, h3, h4]
    · interval_cases i <;> simp
    · interval_cases i <;> simp [hlow]

/-- A byte is a power-down mode's code exactly when its two low bits are the code and its other bits 0 (R48). -/
theorem encodePD_eq_iff (p : ModeBits) (b : Byte) :
    encodePD p = [b] ↔ b.extractLsb' 2 6 = 0#6 ∧ b.extractLsb' 0 2 = p := by
  simp only [encodePD, List.cons.injEq, and_true]
  constructor
  · rintro rfl
    revert p
    decide
  · rintro ⟨hz, rfl⟩
    refine BitVec.eq_of_getLsbD_eq fun i hi => ?_
    rcases Nat.lt_or_ge i 2 with h | h
    · simp [h, hi]
    · have hi0 := congrArg (·.getLsbD (i - 2)) hz
      simp only [BitVec.getLsbD_extractLsb', show i - 2 < 6 by omega, Nat.add_sub_cancel' h, decide_true, Bool.true_and,
        BitVec.getLsbD_zero] at hi0
      simp [h, hi0]

/-! ### Each format's decoder inverts its encoder -/

section formats
variable {b0 b1 b2 : Byte} {i : Instr}

theorem decodeFW_eq_ok_iff {k : ModeBits → Code → Decoded} :
    decodeFW b0 b1 k = .ok i ↔ ∃ p c, encodeFW p c = [b0, b1] ∧ k p c = .ok i := by
  by_cases hs : b0.extractLsb' 6 2 = Config.selFast <;> simp [decodeFW, encodeFW_eq_iff, hs]

theorem decodeWR_eq_ok_iff {sel : BitVec 3} {k : ModeBits → Code → Decoded} :
    decodeWR sel b0 b1 b2 k = .ok i ↔ ∃ p c, encodeWR sel p c = [b0, b1, b2] ∧ k p c = .ok i := by
  by_cases hs : b0.extractLsb' 5 3 = sel
  · simp only [decodeWR, if_pos hs, encodeWR_eq_iff, writeZeroBits, Bool.and_eq_true, beq_iff_eq, and_assoc]
    split <;> simp_all
  · simp [decodeWR, encodeWR_eq_iff, hs]

theorem decodePD_eq_ok_iff {k : ModeBits → Decoded} :
    decodePD b0 k = .ok i ↔ ∃ p, encodePD p = [b0] ∧ k p = .ok i := by
  by_cases hz : b0.extractLsb' 2 6 = 0#6 <;> simp [decodePD, encodePD_eq_iff, hz]

theorem ifNormal_eq_ok_iff {p : ModeBits} {j : Instr} : ifNormal p j = .ok i ↔ p = 0b00#2 ∧ j = i := by
  by_cases h : p = 0b00#2 <;> simp [ifNormal, h]

theorem ifMode_eq_ok_iff {p want : ModeBits} {j : Instr} : ifMode p want j = .ok i ↔ p = want ∧ j = i := by
  by_cases h : p = want <;> simp [ifMode, h]

end formats

/-! ### An operand that fits is a frame's code -/

@[simp] theorem setWidth_operandOfCode (c : Code) : (operandOfCode c).setWidth 12 = c := by
  simp [operandOfCode]

@[simp] theorem codeFits_operandOfCode (c : Code) : codeFits (operandOfCode c) = true := by
  simp [codeFits, operandOfCode, Config.codeWidth, Nat.mod_eq_of_lt (show c.toNat < 65536 by omega), c.isLt]

theorem operandOfCode_setWidth {d : Word16} (h : codeFits d = true) : operandOfCode (d.setWidth 12) = d := by
  have hd : d.toNat < 4096 := of_decide_eq_true h
  refine BitVec.eq_of_toNat_eq ?_
  simp [operandOfCode, Nat.mod_eq_of_lt hd, d.isLt]


/-! ### The row's decoder and the encoder -/

/-- Settles O6: a row's bytes are in its format, and the format's decoder hands on the fields that were encoded. -/
theorem decodeOfEncode : Obligations.DecodeOfEncode := by
  unfold Obligations.DecodeOfEncode
  intro i hwf
  cases i with
  | fastWrite m d =>
    simp only [Instr.row, encode, encodeFW, decodeRow]
    exact decodeFW_eq_ok_iff.2 ⟨_, _, rfl, by rw [pdDecode_pdEncode, operandOfCode_setWidth hwf]⟩
  | writeReg m d | writeEeprom m d =>
    simp only [Instr.row, encode, encodeWR, decodeRow]
    exact decodeWR_eq_ok_iff.2 ⟨_, _, rfl, by rw [pdDecode_pdEncode, operandOfCode_setWidth hwf]⟩
  | setVoltageFast d =>
    simp only [Instr.row, encode, encodeFW, decodeRow]
    exact decodeFW_eq_ok_iff.2 ⟨_, _, rfl, ifNormal_eq_ok_iff.2 ⟨rfl, by rw [operandOfCode_setWidth hwf]⟩⟩
  | setVoltagePersist d =>
    simp only [Instr.row, encode, encodeWR, decodeRow]
    exact decodeWR_eq_ok_iff.2 ⟨_, _, rfl, ifNormal_eq_ok_iff.2 ⟨rfl, by rw [operandOfCode_setWidth hwf]⟩⟩
  | readReply | regStatus | eepromStatus => rfl
  | pdNormal | pdOneK | pdOneHundredK | pdFiveHundredK => rfl
  | pdEncode m =>
    simp only [Instr.row, encode, encodePD, decodeRow]
    exact decodePD_eq_ok_iff.2 ⟨_, rfl, by rw [pdDecode_pdEncode]⟩
  | pdDecode b =>
    simp only [Instr.row, encode, encodePD, decodeRow]
    exact decodePD_eq_ok_iff.2 ⟨_, rfl, rfl⟩

/-- Settles O7: along the decoder's arms, what a format's decoder hands on encodes to the bytes it read; an arm for another
length reads nothing. -/
theorem encodeOfDecode : Obligations.EncodeOfDecode := by
  unfold Obligations.EncodeOfDecode
  intro row bytes i
  fun_cases decodeRow row bytes <;> intro h
  case case1 => -- FAST_WRITE
    obtain ⟨p, c, he, ⟨⟩⟩ := decodeFW_eq_ok_iff.1 h
    exact ⟨codeFits_operandOfCode c, rfl, by simpa [encode] using he⟩
  case case3 => -- SET_VOLTAGE_FAST
    obtain ⟨p, c, he, hk⟩ := decodeFW_eq_ok_iff.1 h
    obtain ⟨rfl, rfl⟩ := ifNormal_eq_ok_iff.1 hk
    exact ⟨codeFits_operandOfCode c, rfl, by simpa [encode] using he⟩
  case case5 | case7 => -- WRITE_REG, WRITE_EEPROM
    obtain ⟨p, c, he, ⟨⟩⟩ := decodeWR_eq_ok_iff.1 h
    exact ⟨codeFits_operandOfCode c, rfl, by simpa [encode] using he⟩
  case case9 => -- SET_VOLTAGE_PERSIST
    obtain ⟨p, c, he, hk⟩ := decodeWR_eq_ok_iff.1 h
    obtain ⟨rfl, rfl⟩ := ifNormal_eq_ok_iff.1 hk
    exact ⟨codeFits_operandOfCode c, rfl, by simpa [encode] using he⟩
  case case11 | case13 | case15 => -- the parts of a reply
    cases h
    exact ⟨rfl, rfl, rfl⟩
  case case17 | case19 | case21 | case23 => -- the four variants
    obtain ⟨p, he, hk⟩ := decodePD_eq_ok_iff.1 h
    obtain ⟨rfl, rfl⟩ := ifMode_eq_ok_iff.1 hk
    exact ⟨rfl, rfl, he⟩
  case case25 | case27 => -- PD_ENCODE, PD_DECODE
    obtain ⟨p, he, ⟨⟩⟩ := decodePD_eq_ok_iff.1 h
    exact ⟨rfl, rfl, by simpa [encode] using he⟩
  all_goals cases h -- the last arm of every row

/-- Settles O8: the decoder of unlabelled bytes is a row's decoder. -/
theorem encodeOfDecodeImage : Obligations.EncodeOfDecodeImage := by
  unfold Obligations.EncodeOfDecodeImage
  intro bytes i h
  unfold decodeImage at h
  split at h
  · obtain ⟨hwf, -, he⟩ := encodeOfDecode _ _ _ h
    exact ⟨hwf, he⟩
  · cases h

/-! ### What the opcode table admits -/

theorem admits_iff (r : TableRow) (bs : List Byte) :
    r.admits bs = true ↔
      bs.length = r.byteCount ∧ wordOfBytes bs < 2 ^ r.width ∧ wordOfBytes bs &&& r.mask = r.matched := by
  simp [TableRow.admits, and_assoc]

/-- Where a mask covers a field, a word under the mask has the match's field. -/
theorem field_of_masked {w mask matched : Nat} (h : w &&& mask = matched) (k n : Nat)
    (hm : ∀ i < n, mask.testBit (k + i) = true) : BitVec.ofNat n (w >>> k) = BitVec.ofNat n (matched >>> k) := by
  refine BitVec.eq_of_getLsbD_eq fun i hi => ?_
  simp only [BitVec.getLsbD_ofNat, Nat.testBit_shiftRight, ← h, Nat.testBit_land, hm i hi, Bool.and_true]

/-- A field of the first byte of two is a field of the word they spell. -/
theorem extract_eq_field_two (b0 b1 : Byte) (k n : Nat) :
    b0.extractLsb' k n = BitVec.ofNat n (wordOfBytes [b0, b1] >>> (8 + k)) := by
  have : wordOfBytes [b0, b1] >>> 8 = b0.toNat := by
    simp [wordOfBytes, Nat.shiftRight_eq_div_pow]
    omega
  rw [Nat.shiftRight_add, this, BitVec.extractLsb']

/-- A field of the first byte of three is a field of the word they spell. -/
theorem extract_eq_field_three (b0 b1 b2 : Byte) (k n : Nat) :
    b0.extractLsb' k n = BitVec.ofNat n (wordOfBytes [b0, b1, b2] >>> (16 + k)) := by
  have : wordOfBytes [b0, b1, b2] >>> 16 = b0.toNat := by
    simp [wordOfBytes, Nat.shiftRight_eq_div_pow]
    omega
  rw [Nat.shiftRight_add, this, BitVec.extractLsb']

/-- The low nibble of the last byte of three is that of the word they spell. -/
theorem extract_low_eq_field_three (b0 b1 b2 : Byte) :
    b2.extractLsb' 0 4 = BitVec.ofNat 4 (wordOfBytes [b0, b1, b2] >>> 0) := by
  refine BitVec.eq_of_toNat_eq ?_
  simp [wordOfBytes]
  omega

/-- Three bytes whose word has `matched` under the mask of WR have its selector and its bits in the constant-zero positions. -/
theorem wrFields_of_masked {b0 b1 b2 : Byte} {matched : Nat} (h : wordOfBytes [b0, b1, b2] &&& 0xF9000F = matched) :
    b0.extractLsb' 5 3 = BitVec.ofNat 3 (matched >>> 21) ∧ b0.extractLsb' 3 2 = BitVec.ofNat 2 (matched >>> 19) ∧
    b0.extractLsb' 0 1 = BitVec.ofNat 1 (matched >>> 16) ∧ b2.extractLsb' 0 4 = BitVec.ofNat 4 (matched >>> 0) :=
  ⟨(extract_eq_field_three b0 b1 b2 5 3).trans (field_of_masked h _ _ (by decide)),
    (extract_eq_field_three b0 b1 b2 3 2).trans (field_of_masked h _ _ (by decide)),
    (extract_eq_field_three b0 b1 b2 0 1).trans (field_of_masked h _ _ (by decide)),
    (extract_low_eq_field_three b0 b1 b2).trans (field_of_masked h _ _ (by decide))⟩

theorem extract_high_of_lt_four {b : Byte} (h : b.toNat < 4) : b.extractLsb' 2 6 = 0#6 := by
  simp [BitVec.extractLsb', Nat.shiftRight_eq_div_pow, Nat.div_eq_of_lt h]

/-- One byte below 4 whose number has `matched` under the mask of PD carries that code. -/
theorem pdFields_of_masked {b : Byte} {matched : Nat} (hlt : wordOfBytes [b] < 2 ^ 2) (h : wordOfBytes [b] &&& 0x3 = matched) :
    b.extractLsb' 2 6 = 0#6 ∧ b.extractLsb' 0 2 = BitVec.ofNat 2 matched := by
  rw [wordOfBytes_one] at hlt h
  exact ⟨extract_high_of_lt_four hlt, field_of_masked h 0 2 (by decide)⟩

/-- A row that admits bytes decodes them: its mask covers every field that its decoder tests. The cases are the table's rows in
its order. -/
theorem decodeRow_ok_of_admits {r : TableRow} {bs : List Byte} (hr : r ∈ opcodeTable) (ha : r.admits bs = true) :
    ∃ i, decodeRow r.row bs = .ok i := by
  obtain ⟨hlen, hlt, hm⟩ := (admits_iff r bs).1 ha
  simp only [opcodeTable, List.mem_append, List.mem_cons, List.not_mem_nil, or_false] at hr
  rcases hr with (rfl | rfl | rfl | rfl | rfl | rfl | rfl | rfl) | rfl | rfl | rfl | rfl | rfl | rfl
  · obtain ⟨b0, b1, rfl⟩ := List.length_eq_two.1 hlen
    have hs := (extract_eq_field_two b0 b1 6 2).trans (field_of_masked hm _ _ (by decide))
    have hp := (extract_eq_field_two b0 b1 4 2).trans (field_of_masked hm _ _ (by decide))
    exact ⟨_, (if_pos hs).trans (if_pos hp)⟩
  · obtain ⟨b0, b1, rfl⟩ := List.length_eq_two.1 hlen
    have hs := (extract_eq_field_two b0 b1 6 2).trans (field_of_masked hm _ _ (by decide))
    exact ⟨_, if_pos hs⟩
  · obtain ⟨b0, b1, rfl⟩ := List.length_eq_two.1 hlen
    exact ⟨_, rfl⟩
  · obtain ⟨b0, b1, b2, rfl⟩ := List.length_eq_three.1 hlen
    have hp := (extract_eq_field_three b0 b1 b2 1 2).trans (field_of_masked hm _ _ (by decide))
    obtain ⟨hs, hz⟩ := wrFields_of_masked (show _ &&& (0xFF000F &&& 0xF9000F) = _ by rw [← Nat.land_assoc, hm])
    exact ⟨_, (if_pos hs).trans ((if_pos hz).trans (if_pos hp))⟩
  · obtain ⟨b0, b1, b2, rfl⟩ := List.length_eq_three.1 hlen
    obtain ⟨hs, hz⟩ := wrFields_of_masked hm
    exact ⟨_, (if_pos hs).trans (if_pos hz)⟩
  · obtain ⟨b0, b1, b2, rfl⟩ := List.length_eq_three.1 hlen
    obtain ⟨hs, hz⟩ := wrFields_of_masked hm
    exact ⟨_, (if_pos hs).trans (if_pos hz)⟩
  · obtain ⟨b0, b1, b2, rfl⟩ := List.length_eq_three.1 hlen
    exact ⟨_, rfl⟩
  · obtain ⟨b0, b1, b2, b3, b4, -, h⟩ := (replyIsFiveBytes bs).2 hlen
    exact ⟨_, h⟩
  all_goals obtain ⟨b, rfl⟩ := List.length_eq_one_iff.1 hlen
  iterate 4
    · obtain ⟨hz, hp⟩ := pdFields_of_masked hlt hm
      exact ⟨_, (if_pos hz).trans (if_pos hp)⟩
  iterate 2
    · obtain ⟨hz, -⟩ := pdFields_of_masked hlt rfl
      exact ⟨_, if_pos hz⟩

/-- Bytes with no row named decode exactly when some row admits them. -/
theorem exists_decodeImage_iff (bs : List Byte) :
    (∃ i, decodeImage bs = .ok i) ↔ ∃ r ∈ opcodeTable, r.admits bs = true := by
  unfold decodeImage
  split
  · next r hr =>
    have hmem := List.mem_of_find?_eq_some hr
    have hadm : r.admits bs = true := by simpa using List.find?_some hr
    exact ⟨fun _ => ⟨r, hmem, hadm⟩, fun _ => decodeRow_ok_of_admits hmem hadm⟩
  · next hn => simpa using hn

/-- A length that no row has is refused by its length. -/
theorem decodeImage_of_length {bs : List Byte} (h : bs.length ∉ [1, 2, 3, 5]) :
    decodeImage bs = .reject (commandLengthError bs.length) := by
  have hcount : ∀ r ∈ opcodeTable, r.byteCount ∈ [1, 2, 3, 5] := by decide
  have hnone : opcodeTable.find? (·.admits bs) = none := by
    refine List.find?_eq_none.2 fun r hr ha => h ?_
    rw [((admits_iff r bs).1 ha).1]
    exact hcount r hr
  rw [decodeImage, hnone]
  exact congrArg Decoded.reject (if_neg fun h1 => h (by simp [h1]))

/-- Settles O9: the rows of the reply admit every pair, three and five bytes, the PD rows the bytes below 4, and no row has
another length. -/
theorem imageLengths : Obligations.ImageLengths := by
  unfold Obligations.ImageLengths
  intro bytes
  refine ⟨fun h => (exists_decodeImage_iff bytes).2 ?_, ?_, fun h => ?_, fun h => ?_⟩
  · rcases h with h | h | h
    · obtain ⟨b0, b1, rfl⟩ := List.length_eq_two.1 h
      obtain ⟨r, hr, -, ha⟩ := Laws.MatchesTable.eepromStatus b0 b1
      exact ⟨r, hr, ha⟩
    · obtain ⟨b0, b1, b2, rfl⟩ := List.length_eq_three.1 h
      obtain ⟨r, hr, -, ha⟩ := Laws.MatchesTable.regStatus b0 b1 b2
      exact ⟨r, hr, ha⟩
    · obtain ⟨b0, b1, b2, b3, b4, rfl, -⟩ := (replyIsFiveBytes bytes).2 h
      obtain ⟨r, hr, -, ha⟩ := Laws.MatchesTable.readReply b0 b1 b2 b3 b4
      exact ⟨r, hr, ha⟩
  · rintro b rfl
    rw [exists_decodeImage_iff]
    constructor
    · rintro ⟨r, hr, ha⟩
      obtain ⟨hlen, hlt, -⟩ := (admits_iff r [b]).1 ha
      have hwidth : ∀ r ∈ opcodeTable, r.byteCount = 1 → r.width = 2 := by decide
      rwa [hwidth r hr hlen.symm, wordOfBytes_one] at hlt
    · intro hlt
      have hb : encodePD (b.extractLsb' 0 2) = [b] := (encodePD_eq_iff _ b).2 ⟨extract_high_of_lt_four hlt, rfl⟩
      obtain ⟨r, hr, -, ha⟩ := Laws.MatchesTable.pdDecode (b.extractLsb' 0 2)
      exact ⟨r, hr, hb ▸ ha⟩
  · rw [decodeImage_of_length (by rcases h with h | h <;> simp [h]), commandLengthError, if_pos h]
  · have hlen : bytes.length ∉ [1, 2, 3, 5] ∧ ¬(bytes.length = 4 ∨ bytes.length = 6) := by
      simp only [List.mem_cons, List.not_mem_nil, or_false]
      omega
    rw [decodeImage_of_length hlen.1, commandLengthError, if_neg hlen.2]

/-! ### Selectors with bit 7 set -/

section unassigned
variable {b0 : Byte} (h : b0.getLsbD 7 = true)
include h

/-- A field of byte 0 up to bit 7 is no selector whose top bit is 0. -/
theorem extract_ne_of_bit7 {k n : Nat} {sel : BitVec (n + 1)} (hk : k + n = 7) (hsel : sel.getLsbD n = false) :
    b0.extractLsb' k (n + 1) ≠ sel := by
  rintro rfl
  rw [BitVec.getLsbD_extractLsb', hk, h] at hsel
  simp at hsel

theorem decodeFW_of_bit7 (b1 : Byte) (k : ModeBits → Code → Decoded) :
    decodeFW b0 b1 k = .reject .unassignedSelector := by
  rw [decodeFW, if_neg (extract_ne_of_bit7 h rfl rfl), selectorError, if_pos h]

theorem decodeWR_of_bit7 (sel : BitVec 3) (hsel : sel.getLsbD 2 = false) (b1 b2 : Byte) (k : ModeBits → Code → Decoded) :
    decodeWR sel b0 b1 b2 k = .reject .unassignedSelector := by
  rw [decodeWR, if_neg (extract_ne_of_bit7 h rfl hsel), selectorError, if_pos h]

end unassigned

/-- Settles O10: every command selector has its top bit at byte 0 bit 7, where it is 0. -/
theorem unassignedSelectorsAreRefused : Obligations.UnassignedSelectorsAreRefused := by
  unfold Obligations.UnassignedSelectorsAreRefused
  intro b0 b1 b2 h
  constructor
  · rintro row (rfl | rfl) <;> rw [decodeRow, decodeFW_of_bit7 h]
  · rintro row (rfl | rfl | rfl) <;> rw [decodeRow, decodeWR_of_bit7 h] <;> rfl

/-! ### The frames of the emitted rows -/

/-- A full write's selector is one of the two that are assigned, and its constant-zero positions are 0 (R54, R55). -/
theorem emittable_of_encodeWR {persist : Bool} {p : ModeBits} {c : Code} {b0 b1 b2 : Byte}
    (h : encodeWR (wrSelector persist) p c = [b0, b1, b2]) : emittable [b0, b1, b2] = true := by
  obtain ⟨hs, hz, -⟩ := (encodeWR_eq_iff _ p c b0 b1 b2).1 h
  cases persist <;> simp [emittable, hs, hz, wrSelector, Config.selPersist, Config.selReg]

theorem emittable_encodeWR (persist : Bool) (p : ModeBits) (c : Code) : emittable (encodeWR (wrSelector persist) p c) = true :=
  emittable_of_encodeWR (persist := persist) rfl

theorem emittable_encodeFW (p : ModeBits) (c : Code) : emittable (encodeFW p c) = true :=
  beq_iff_eq.2 ((encodeFW_eq_iff p c _ _).1 rfl).1

theorem writeFrame_zeroBits (m : PowerDownMode) (d : Word16) (persist : Bool) :
    writeZeroBits (writeFrame m d persist)[0] (writeFrame m d persist)[2] = true :=
  ((encodeWR_eq_iff _ _ _ _ _ _).1 (writeFrame_toList m d persist).symm).2.1

/-- Settles O24: the ports carry the frames of the encoder, and `sv_len` is 3 only when they carry a full write. -/
theorem constantZeroBits : Obligations.ConstantZeroBits := by
  unfold Obligations.ConstantZeroBits
  intro p
  refine ⟨writeFrame_zeroBits _ _ _, fun hlen => ?_, ?_⟩
  · cases hp : boolOfBit p.svPersist with
    | true => simpa [blockOutputs, setVoltagePorts, hp] using writeFrame_zeroBits .normal p.svCode true
    | false => simp [blockOutputs, setVoltagePorts, hp] at hlen
  · exact ((encodeFW_eq_iff _ _ _ _).1 (fastWriteFrame_toList (pdDecode p.fwMode) p.fwCode).symm).1

@[simp] theorem bytes_spaceOfBytes (bs : List Byte) : (spaceOfBytes bs).bytes = bs := by
  simp [spaceOfBytes, Memory.bytes, Function.comp_def]

/-- The rows that take a frame into TX. -/
abbrev emittedRows : List Row := [.fastWrite, .writeReg, .writeEeprom, .setVoltageFast, .setVoltagePersist]

/-- What an emitted row does: it drives input ports and takes its encoding. -/
theorem exec_of_emitted {i : Instr} (hi : i.row ∈ emittedRows) (s : State) :
    ∃ x, exec i s = .next ((s.setInp x).setTx (spaceOfBytes (encode i))) := by
  cases i with
  | fastWrite m d => exact ⟨_, exec_fastWrite s m d⟩
  | writeReg m d => exact ⟨_, exec_writeReg s m d⟩
  | writeEeprom m d => exact ⟨_, exec_writeEeprom s m d⟩
  | setVoltageFast d => exact ⟨_, exec_setVoltageFast s d⟩
  | setVoltagePersist d => exact ⟨_, exec_setVoltagePersist s d⟩
  | _ => simp [Instr.row] at hi

/-- Settles O26: an emitted row fills TX with the encoding from index 0 on. -/
theorem emittedFrameIsTheEncoding : Obligations.EmittedFrameIsTheEncoding := by
  unfold Obligations.EmittedFrameIsTheEncoding
  intro i s hi
  obtain ⟨x, hx⟩ := exec_of_emitted hi s
  exact ⟨_, hx, by simp⟩

/-- The encoding of an emitted row is a frame that the invariant allows. -/
theorem emittable_encode {i : Instr} (hi : i.row ∈ emittedRows) : emittable (encode i) = true := by
  cases i with
  | fastWrite | setVoltageFast => exact emittable_encodeFW _ _
  | writeReg => exact emittable_encodeWR false _ _
  | writeEeprom | setVoltagePersist => exact emittable_encodeWR true _ _
  | _ => simp [Instr.row] at hi

/-- Settles O25: the frame is the encoding, whose byte 0 has the selector, and for `set_voltage` the mode Normal, at its top. -/
theorem emittedSelectors : Obligations.EmittedSelectors := by
  unfold Obligations.EmittedSelectors
  intro s m d i sel n h
  suffices i.row ∈ emittedRows ∧ ∃ b0 rest, encode i = b0 :: rest ∧ (encode i).length = n ∧
      (List.range sel.length).map (fun k => b0.getLsbD (7 - k)) = sel by
    obtain ⟨hi, b0, rest, hbytes, hlen, hsel⟩ := this
    obtain ⟨t, ht, hb⟩ := emittedFrameIsTheEncoding i s hi
    exact ⟨t, b0, rest, ht, hb.trans hbytes, hb ▸ hlen, hsel⟩
  simp only [List.mem_cons, Prod.mk.injEq, List.not_mem_nil, or_false] at h
  rcases h with ⟨rfl, rfl, rfl⟩ | ⟨rfl, rfl, rfl⟩ | ⟨rfl, rfl, rfl⟩ | ⟨rfl, rfl, rfl⟩ | ⟨rfl, rfl, rfl⟩ <;>
    exact ⟨by simp [Instr.row], _, _, rfl, rfl, by simp [List.range_succ]⟩

/-! ### The invariant, update by update -/

/-- A space's canonical form is that its indexes rise. -/
theorem Memory.wf_iff_pairwise (m : Memory) : m.wf = true ↔ (m.map (·.1)).Pairwise (· < ·) := by
  rw [List.pairwise_map]
  induction m with
  | nil => simp [Memory.wf]
  | cons c rest ih => rw [Memory.wf_cons_iff, List.pairwise_cons, ih]

/-- A frame's indexes are gapless from 0. -/
theorem indexes_spaceOfBytes (bs : List Byte) : (spaceOfBytes bs).map (·.1) = List.range (spaceOfBytes bs).length := by
  simp [spaceOfBytes, Function.comp_def, List.range_eq_range']

theorem wf_spaceOfBytes (bs : List Byte) : (spaceOfBytes bs).wf = true := by
  rw [Memory.wf_iff_pairwise, indexes_spaceOfBytes]
  exact List.pairwise_lt_range

/-- Every register view the decoder produces agrees with its raw byte (R85). -/
theorem decodeRegister_agreesWithRaw (b0 b1 b2 : Byte) : (decodeRegister b0 b1 b2).agreesWithRaw := by
  simp [RegisterStatus.agreesWithRaw, decodeRegister, boolOfBit_eq, readyFlag, porFlag, registerModeField]

namespace State.Inv
variable {s : State} (h : s.Inv)
include h

theorem setInp (x : Inputs) : (s.setInp x).Inv := { h with }
theorem setEe (x : Option EepromStatus) : (s.setEe x).Inv := { h with }
theorem setPdBits (x : Option ModeBits) : (s.setPdBits x).Inv := { h with }
theorem setPdMode (x : Option PowerDownMode) : (s.setPdMode x).Inv := { h with }
theorem setResults (x : List HostResult) : (s.setResults x).Inv := { h with }
theorem setAgenda (x : List Request) : (s.setAgenda x).Inv := { h with }
theorem setWriteAnswers (x : List WriteAnswer) : (s.setWriteAnswers x).Inv := { h with }
theorem setReadAnswers (x : List ReadAnswer) : (s.setReadAnswers x).Inv := { h with }

theorem setTx_frame {bs : List Byte} (hb : emittable bs = true) : (s.setTx (spaceOfBytes bs)).Inv :=
  { h with
    txCanonical := wf_spaceOfBytes bs
    txFrame := .inr ⟨(congrArg emittable (bytes_spaceOfBytes bs)).trans hb, indexes_spaceOfBytes bs⟩ }

theorem setReg_decoded (b0 b1 b2 : Byte) : (s.setReg (some (decodeRegister b0 b1 b2))).Inv :=
  { h with
    regAgrees := by
      rintro r ⟨⟩
      exact decodeRegister_agreesWithRaw b0 b1 b2 }

/-- With nothing in flight the orchestrator may come and go. -/
theorem setDriver_of_idle (hn : s.inflight = none) (x : Option Driver) : (s.setDriver x).Inv :=
  { h with inflightOwned := fun _ hc => nomatch hn.symm.trans hc }

theorem finish (r : HostResult) : (s.finish r).Inv :=
  { h with inflightOwned := fun _ hc => nomatch hc }

/-- The live orchestrator may issue a read, or a write of an emittable frame. -/
theorem issue {d : Driver} {c : BusCall} (hd : s.driver = some d) (ha : c.addr = d.addr7)
    (hw : ∀ a bytes, c = .write a bytes → emittable bytes = true) : (s.issue c).Inv :=
  { h with
    callsEmittable := by
      intro a bytes hmem
      rcases List.mem_append.1 hmem with hold | hnew
      · exact h.callsEmittable a bytes hold
      · exact hw a bytes (List.mem_singleton.1 hnew).symm
    inflightOwned := by
      rintro _ ⟨⟩
      exact ⟨List.getLast?_concat, d, hd, ha.symm⟩ }

/-! ### The invariant, operation by operation -/

theorem exec_emitted {i : Instr} {t : State} (hi : i.row ∈ emittedRows) (he : exec i s = .next t) : t.Inv := by
  obtain ⟨x, hx⟩ := exec_of_emitted hi s
  cases he.symm.trans hx
  exact (h.setInp x).setTx_frame (emittable_encode hi)

theorem exec {i : Instr} {t : State} (he : exec i s = .next t) : t.Inv := by
  cases i with
  | fastWrite | writeReg | writeEeprom | setVoltageFast | setVoltagePersist =>
    exact h.exec_emitted (by simp [Instr.row]) he
  | readReply b0 b1 b2 b3 b4 =>
    cases he.symm.trans (exec_readReply s b0 b1 b2 b3 b4)
    exact ((h.setInp _).setReg_decoded b0 b1 b2).setEe _
  | regStatus b0 b1 b2 =>
    cases he.symm.trans (exec_regStatus s b0 b1 b2)
    exact (h.setInp _).setReg_decoded b0 b1 b2
  | eepromStatus b3 b4 =>
    cases he.symm.trans (exec_eepromStatus s b3 b4)
    exact (h.setInp _).setEe _
  | pdNormal | pdOneK | pdOneHundredK | pdFiveHundredK =>
    cases he
    exact ((h.setInp _).setPdBits _).setPdMode _
  | pdEncode m =>
    cases he
    exact (h.setInp _).setPdBits _
  | pdDecode b =>
    cases he
    exact (h.setInp _).setPdMode _

/-- A host write runs an emitted row and hands TX over. -/
theorem exec_sendTx {i : Instr} {d : Driver} {t : State} (hd : s.driver = some d) (hi : i.row ∈ emittedRows)
    (he : Machine.exec i s = .next t) : (t.sendTx d).Inv := by
  obtain ⟨x, hx⟩ := exec_of_emitted hi s
  cases he.symm.trans hx
  refine (h.exec he).issue (d := d) hd rfl ?_
  rintro a bytes ⟨⟩
  simpa using emittable_encode hi

theorem startHostOp {d : Driver} (hd : s.driver = some d) (hn : s.inflight = none) (op : HostOp) :
    (startHostOp op d s).Inv := by
  cases op with
  | read => exact h.issue hd rfl fun _ _ hc => nomatch hc
  | fastWrite m c => exact h.exec_sendTx (i := .fastWrite m c) hd (by simp [Instr.row]) rfl
  | write m c persist =>
    cases persist
    · exact h.exec_sendTx (i := .writeReg m c) hd (by simp [Instr.row]) rfl
    · exact h.exec_sendTx (i := .writeEeprom m c) hd (by simp [Instr.row]) rfl
  | setVoltage c persist =>
    cases persist
    · exact h.exec_sendTx (i := .setVoltageFast c) hd (by simp [Instr.row]) rfl
    · exact h.exec_sendTx (i := .setVoltagePersist c) hd (by simp [Instr.row]) rfl
  | destroy => exact (h.setResults (s.results ++ [.handle d.bus])).setDriver_of_idle hn none

theorem resumeWrite : (resumeWrite s).Inv := by
  obtain ⟨-, hs⟩ | ⟨rest, -, hs⟩ | ⟨e, rest, -, hs⟩ := resumeWrite_cases s <;> rw [hs]
  · exact h
  · exact (h.setWriteAnswers rest).finish _
  · exact (h.setWriteAnswers rest).finish _

theorem resumeRead : (resumeRead s).Inv := by
  obtain ⟨-, hs⟩ | ⟨b0, b1, b2, b3, b4, rest, -, hs⟩ | ⟨e, rest, -, hs⟩ := resumeRead_cases s <;> rw [hs]
  · exact h
  · exact ((h.setReadAnswers rest).exec (i := .readReply b0 b1 b2 b3 b4) rfl).finish _
  · exact (h.setReadAnswers rest).finish _

theorem takeTurn : s.takeTurn.Inv := by
  obtain ⟨-, hs⟩ | ⟨c, -, hs⟩ := s.takeTurn_cases <;> rw [hs]
  · exact h
  · cases c with
    | write a bytes => exact h.resumeWrite
    | read a => exact h.resumeRead

end State.Inv

/-- Settles O54: a step gives a turn or serves one request, and each keeps the invariant; the requests that change the
orchestrator are served only with nothing in flight. -/
theorem stepKeepsInvariant : Obligations.StepKeepsInvariant := by
  unfold Obligations.StepKeepsInvariant
  intro s t h hstep
  obtain rfl | ⟨r, rest, -, hidle, hserve⟩ := advance_next_cases hstep
  · exact h.takeTurn
  have h' := h.setAgenda rest
  obtain ⟨i, he⟩ | ⟨bus, addr7, rfl, -, rfl⟩ | ⟨op, d, rfl, hd, rfl⟩ | ⟨-, rfl⟩ := serve_next_cases hserve
  · exact h'.exec he
  · exact h'.setDriver_of_idle (hidle rfl) _
  · exact h'.startHostOp hd (hidle rfl) op
  · exact h'.takeTurn

/-! ### Words of the layouts -/

/-- Settles O4: each word, run through its row's decoder. -/
theorem specWordsDecode : Obligations.SpecWordsDecode := by
  unfold Obligations.SpecWordsDecode
  decide

end Sys2Proof.Machine
end

section
/-! PROOF. The family 40_pd_codec.md: each run of the codec as one record update, so that its tables are its rows, and the two
directions invert each other. -/

namespace Sys2Proof.Machine

/-! ### The codec's runs as record updates -/

/-- R64 on any variant. -/
theorem exec_pdEncode_record (s : State) (m : PowerDownMode) :
    exec (.pdEncode m) s = .next { s with inp := { s.inp with pdeMode := m }, pdBits := some (pdEncode m) } := by
  rw [exec_pdEncode, State.runPdEncode_eq]
  rfl

/-- R65 on any two bits. -/
theorem exec_pdDecode_record (s : State) (b : ModeBits) :
    exec (.pdDecode b) s = .next { s with inp := { s.inp with pddBits := b }, pdMode := some (pdDecode b) } := by
  rw [exec_pdDecode, State.runPdDecode_eq]
  rfl

/-- R63: a variant's row drives the decoder with the variant's own code, so the decoder answers the variant. -/
theorem State.runVariant_pdEncode (s : State) (m : PowerDownMode) :
    s.runVariant m (pdEncode m) = { s with
      inp := { s.inp with pdeMode := m, pddBits := pdEncode m }, pdBits := some (pdEncode m), pdMode := some m } := by
  rw [State.runVariant_eq, pdDecode_pdEncode]
  rfl

/-! ### The codes -/

/-- The four rows of the table reach every two-bit pattern: each is the code of the variant it decodes to. -/
theorem modeBits_cases (b : ModeBits) : b = 0b00#2 ∨ b = 0b01#2 ∨ b = 0b10#2 ∨ b = 0b11#2 := by
  rw [← pdEncode_pdDecode b]
  cases pdDecode b <;> simp [pdEncode]

theorem pdEncode_eq_ofNat_pdNumber (m : PowerDownMode) : pdEncode m = BitVec.ofNat 2 (pdNumber m) := by
  cases m <;> rfl

/-! ### The tables and the bijection -/

/-- Settles O12: the encoder's run at each variant. -/
theorem pdEncodeTable : Obligations.PdEncodeTable := by
  unfold Obligations.PdEncodeTable
  intro s
  exact ⟨exec_pdEncode_record s .normal, exec_pdEncode_record s .oneK, exec_pdEncode_record s .oneHundredK,
    exec_pdEncode_record s .fiveHundredK⟩

/-- Settles O13: the decoder's run at each code; the encoder's table is onto, so there is no fifth pattern. -/
theorem pdDecodeTable : Obligations.PdDecodeTable := by
  unfold Obligations.PdDecodeTable
  refine ⟨fun s => ?_, modeBits_cases⟩
  exact ⟨exec_pdDecode_record s 0b00#2, exec_pdDecode_record s 0b01#2, exec_pdDecode_record s 0b10#2,
    exec_pdDecode_record s 0b11#2⟩

/-- Settles O14: each row runs its variant with that variant's code. -/
theorem variantRowsPairModeAndCode : Obligations.VariantRowsPairModeAndCode := by
  unfold Obligations.VariantRowsPairModeAndCode
  intro s
  rw [exec_pdNormal, exec_pdOneK, exec_pdOneHundredK, exec_pdFiveHundredK]
  exact ⟨congrArg _ (s.runVariant_pdEncode .normal), congrArg _ (s.runVariant_pdEncode .oneK),
    congrArg _ (s.runVariant_pdEncode .oneHundredK), congrArg _ (s.runVariant_pdEncode .fiveHundredK)⟩

/-- Settles O15: the two round trips, and the codes as numbers. -/
theorem codecIsABijection : Obligations.CodecIsABijection := by
  unfold Obligations.CodecIsABijection
  exact ⟨pdDecode_pdEncode, pdEncode_pdDecode, pdEncode_eq_ofNat_pdNumber⟩

end Sys2Proof.Machine
end

section
/-! PROOF. The family 41_command_encoder.md: the encodings of the emitted rows written out byte by byte, so that every frame's
bytes, length and fields, the masking of the operand and the delegation of `set_voltage` follow from the rows' equations. -/

namespace Sys2Proof.Machine

/-! ### The masked operand -/

/-- The 12 significant bits as a 16-bit quantity are the masked operand (R71). -/
theorem setWidth_setWidth_code (d : Word16) : (d.setWidth 12).setWidth 16 = d &&& 0xFFF#16 := by
  refine BitVec.eq_of_getLsbD_eq fun i hi => ?_
  interval_cases i <;> simp

/-- Masking first discards nothing that cutting to 12 bits keeps (R71). -/
theorem setWidth_masked (d : Word16) : (d &&& 0xFFF#16).setWidth 12 = d.setWidth 12 :=
  maskCode_eq_setWidth d

/-! ### The bytes of the two layouts, by concatenation -/

theorem hiByte_fwWord (p : ModeBits) (c : Code) : hiByte (fwWord p c) = 0b00#2 ++ p ++ c.extractLsb' 8 4 := by
  refine BitVec.eq_of_getLsbD_eq fun i hi => ?_
  refine .trans ?_ (getLsbD_append_at (0b00#2 ++ p) (c.extractLsb' 8 4) i rfl).symm
  rw [hiByte_getLsbD, fwWord_getLsbD]
  split
  · rw [if_pos (by omega)]
    simp [hi, show i < 4 by omega]
  · rw [if_neg (by omega)]
    refine .trans ?_ (getLsbD_append_at 0b00#2 p (i - 4) rfl).symm
    interval_cases i <;> simp

theorem loByte_fwWord (p : ModeBits) (c : Code) : loByte (fwWord p c) = c.extractLsb' 0 8 := by
  refine BitVec.eq_of_getLsbD_eq fun i hi => ?_
  rw [loByte_getLsbD, fwWord_getLsbD, if_pos (by omega)]
  simp

theorem hiByte_wrValue (c : Code) : hiByte (wrValue c) = c.extractLsb' 4 8 := by
  refine BitVec.eq_of_getLsbD_eq fun i hi => ?_
  rw [hiByte_getLsbD, wrValue_getLsbD]
  simp [hi, show 4 ≤ 8 + i by omega, show 8 + i - 4 = 4 + i by omega]

theorem loByte_wrValue (c : Code) : loByte (wrValue c) = c.extractLsb' 0 4 ++ 0b0000#4 := by
  refine BitVec.eq_of_getLsbD_eq fun i hi => ?_
  refine .trans ?_ (getLsbD_append_at (c.extractLsb' 0 4) 0b0000#4 i rfl).symm
  rw [loByte_getLsbD, wrValue_getLsbD]
  interval_cases i <;> simp

/-- The FW frame, byte by byte (R45, R68). -/
theorem encodeFW_eq (p : ModeBits) (c : Code) :
    encodeFW p c = [0b00#2 ++ p ++ c.extractLsb' 8 4, c.extractLsb' 0 8] := by
  rw [← hiByte_fwWord, ← loByte_fwWord, fwWord_eq_or]
  rfl

/-- The WR frame, byte by byte (R46, R69). -/
theorem encodeWR_eq (sel : BitVec 3) (p : ModeBits) (c : Code) :
    encodeWR sel p c = [wrByte0 sel p, c.extractLsb' 4 8, c.extractLsb' 0 4 ++ 0b0000#4] := by
  rw [← hiByte_wrValue, ← loByte_wrValue, wrByte0_eq_extract sel p c, wrValue_eq_extract sel p c, hiByte_extract,
    loByte_extract]
  rfl

/-- Byte 0 of WR as the selector at bits 7-5 and the mode at bits 2-1 (R69). -/
theorem wrByte0_eq_or (sel : BitVec 3) (p : ModeBits) : wrByte0 sel p = (sel.setWidth 8 <<< 5) ||| (p.setWidth 8 <<< 1) := by
  refine BitVec.eq_of_getLsbD_eq fun i hi => ?_
  rw [wrByte0_getLsbD]
  interval_cases i <;> simp

/-- Bytes 1-2 of WR as the code shifted left by 4 (R69). -/
theorem wrValue_eq_shiftLeft (c : Code) : wrValue c = c.setWidth 16 <<< 4 := by
  refine BitVec.eq_of_getLsbD_eq fun i hi => ?_
  rw [wrValue_getLsbD]
  interval_cases i <;> simp

/-- Bytes 1-2 of WR shifted right by 4 are the code field (R46, R76). -/
theorem be16_ushiftRight_four (b1 b2 : Byte) : be16 b1 b2 >>> 4 = (wrCodeField b1 b2).setWidth 16 := by
  refine BitVec.eq_of_getLsbD_eq fun i hi => ?_
  rw [BitVec.getLsbD_ushiftRight, be16_getLsbD, BitVec.getLsbD_setWidth, wrCodeField_getLsbD]
  interval_cases i <;> simp

/-! ### `write` for both values of `persist_to_eeprom` -/

/-- The two rows of `write` are one operation with the persist value as an operand (R69). -/
theorem exec_fullWrite (s : State) (m : PowerDownMode) (d : Word16) (persist : Bool) :
    exec (if persist then .writeEeprom m d else .writeReg m d) s =
      .next ((s.setInp (s.inp.driveWrite m d persist)).setTx
        (spaceOfBytes (encodeWR (wrSelector persist) (pdEncode m) (d.setWidth 12)))) := by
  cases persist
  · exact exec_writeReg s m d
  · exact exec_writeEeprom s m d

/-! ### `set_voltage` for both values of `persist_to_eeprom` -/

/-- `set_voltage` persisting: WR with the mode Normal, whose byte 0 is `0x60` (R70). -/
theorem setVoltagePorts_true (d : Word16) :
    setVoltagePorts d true =
      ⟨3#2, 0x60#8, (maskCode d).extractLsb' 4 8, (maskCode d).extractLsb' 0 4 ++ 0b0000#4⟩ := by
  rw [← hiByte_wrValue, ← loByte_wrValue]
  rfl

/-- `set_voltage` not persisting: FW with the mode Normal, and `SV_PAD` on the third byte port (R70). -/
theorem setVoltagePorts_false (d : Word16) :
    setVoltagePorts d false =
      ⟨2#2, 0b0000#4 ++ (maskCode d).extractLsb' 8 4, (maskCode d).extractLsb' 0 8, 0x00#8⟩ := by
  have hhi : hiByte (fwWord 0b00#2 (maskCode d)) = 0b0000#4 ++ (maskCode d).extractLsb' 8 4 := hiByte_fwWord _ _
  rw [← hhi, ← loByte_fwWord 0b00#2]
  rfl

/-- With the `sv_*` group driven, its output ports carry what `set_voltage` answers on the operands (R16, R70). -/
theorem outputs_of_driveVoltage {t : State} {q : Inputs} {d : Word16} {persist : Bool} (h : t.inp = q.driveVoltage d persist) :
    ⟨t.outputs.svLen, t.outputs.svB0, t.outputs.svB1, t.outputs.svB2⟩ = setVoltagePorts d persist := by
  simp [State.outputs, h, blockOutputs, Inputs.driveVoltage]

/-- SET_VOLTAGE's run: the `sv_*` ports are driven and TX is the frame on its byte ports (R70). -/
theorem exec_setVoltage (s : State) (d : Word16) (persist : Bool) :
    exec (if persist then .setVoltagePersist d else .setVoltageFast d) s =
      .next ((s.setInp (s.inp.driveVoltage d persist)).setTx (spaceOfBytes (setVoltagePorts d persist).frame)) := by
  rw [← State.runVoltage_eq]
  cases persist <;> rfl

/-! ### The results of the three operations -/

/-- Settles O16: FAST_WRITE's equation with its encoding written out; the two bytes are the halves of the FW word. -/
theorem fastWriteResult : Obligations.FastWriteResult := by
  unfold Obligations.FastWriteResult
  intro m d s p c b0 b1
  have hc : c = d.setWidth 12 := maskCode_eq_setWidth d
  constructor
  · rw [exec_fastWrite, encode, ← hc, encodeFW_eq, spaceOfBytes_two]
    rfl
  · calc be16 b0 b1 = fwWord p c := by rw [← be16_hiByte_loByte (fwWord p c), hiByte_fwWord, loByte_fwWord]
      _ = _ := by rw [fwWord_eq_or, hc, setWidth_setWidth_code]

/-- Settles O17: `write`'s equation with its encoding written out; bytes 1-2 are the halves of the shifted code. -/
theorem fullWriteResult : Obligations.FullWriteResult := by
  unfold Obligations.FullWriteResult
  intro m d persist s p sel c b0 b1 b2
  have hc : c = d.setWidth 12 := maskCode_eq_setWidth d
  refine ⟨?_, ?_, ?_⟩
  · rw [exec_fullWrite, ← hc, encodeWR_eq, spaceOfBytes_three]
    rfl
  · refine (wrByte0_eq_or sel p).trans ?_
    cases persist <;> rfl
  · calc be16 b1 b2 = wrValue c := by rw [← be16_hiByte_loByte (wrValue c), hiByte_wrValue, loByte_wrValue]
      _ = _ := by rw [wrValue_eq_shiftLeft, hc, setWidth_setWidth_code]

/-- Settles O18: each path's run with its ports written out; TX holds the first `sv_len` of the port bytes. -/
theorem setVoltageResult : Obligations.SetVoltageResult := by
  unfold Obligations.SetVoltageResult
  intro d s c
  constructor
  · have hexec := exec_setVoltage s d true
    rw [setVoltagePorts_true] at hexec
    exact ⟨_, hexec, rfl, SetVoltagePorts.mk.inj ((outputs_of_driveVoltage (q := s.inp) rfl).trans (setVoltagePorts_true d))⟩
  · have hexec := exec_setVoltage s d false
    rw [setVoltagePorts_false] at hexec
    exact ⟨_, hexec, rfl, SetVoltagePorts.mk.inj ((outputs_of_driveVoltage (q := s.inp) rfl).trans (setVoltagePorts_false d))⟩

/-! ### The laws of the encoder -/

/-- Settles O19: an emitted row takes its encoding, and an encoding has no more of the operand than its low 12 bits. -/
theorem maskingLaw : Obligations.MaskingLaw := by
  unfold Obligations.MaskingLaw
  intro m d s op hop
  have hop' : (∀ x, (op x).row ∈ emittedRows) ∧ encode (op d) = encode (op (d &&& 0xFFF#16)) := by
    simp only [List.mem_cons, List.not_mem_nil, or_false] at hop
    rcases hop with rfl | rfl | rfl | rfl | rfl <;>
      exact ⟨fun _ => by simp [Instr.row], by simp only [encode, setWidth_masked]⟩
  obtain ⟨hrow, henc⟩ := hop'
  obtain ⟨x, hx⟩ := exec_of_emitted (hrow d) s
  obtain ⟨x', hx'⟩ := exec_of_emitted (hrow (d &&& 0xFFF#16)) s
  exact ⟨_, _, hx, hx', congrArg spaceOfBytes henc⟩

/-- Settles O20: an emitted row takes its encoding, which has 2 or 3 bytes by its layout. -/
theorem lengthLaw : Obligations.LengthLaw := by
  unfold Obligations.LengthLaw
  intro m d s i n h
  have hi : i.row ∈ emittedRows ∧ (encode i).length = n := by
    simp only [List.mem_cons, Prod.mk.injEq, List.not_mem_nil, or_false] at h
    rcases h with ⟨rfl, rfl⟩ | ⟨rfl, rfl⟩ | ⟨rfl, rfl⟩ | ⟨rfl, rfl⟩ | ⟨rfl, rfl⟩ <;>
      simp [Instr.row, encode, encodeFW, encodeWR]
  obtain ⟨hrow, rfl⟩ := hi
  obtain ⟨x, hx⟩ := exec_of_emitted hrow s
  refine ⟨_, hx, fun a => ?_⟩
  rw [State.setTx_tx, read_spaceOfBytes, Bool.eq_iff_iff]
  simp

/-- Settles O21: the layout FW reads back field by field. -/
theorem fastWriteReadBack : Obligations.FastWriteReadBack := by
  unfold Obligations.FastWriteReadBack
  intro m d s
  obtain ⟨hsel, hmode, hcode⟩ := (encodeFW_eq_iff (pdEncode m) (d.setWidth 12) _ _).1 rfl
  refine ⟨_, _, _, exec_fastWrite s m d, bytes_spaceOfBytes _, hsel, hmode, ?_⟩
  exact (congrArg (BitVec.setWidth 16) hcode).trans (setWidth_setWidth_code d)

/-- Settles O22: the layout WR reads back field by field. -/
theorem fullWriteReadBack : Obligations.FullWriteReadBack := by
  unfold Obligations.FullWriteReadBack
  intro m d persist s
  obtain ⟨hsel, hzero, hmode, hcode⟩ := (encodeWR_eq_iff (wrSelector persist) (pdEncode m) (d.setWidth 12) _ _ _).1 rfl
  refine ⟨_, _, _, _, exec_fullWrite s m d persist, bytes_spaceOfBytes _, hsel, hmode, ?_, ?_⟩
  · rw [be16_ushiftRight_four, hcode, setWidth_setWidth_code]
  · simpa only [writeZeroBits, Bool.and_eq_true, beq_iff_eq, and_assoc] using hzero

/-- Settles O23: the two encodings are one, and the `sv_*` ports are computed from the frame of the operation delegated to. -/
theorem delegationLaw : Obligations.DelegationLaw := by
  unfold Obligations.DelegationLaw
  refine ⟨fun d s => ?_, fun d s => ?_, fun p hp hm hc => ?_, fun p hp hm hw hc => ?_⟩
  · exact ⟨_, _, exec_setVoltageFast s d, exec_fastWrite s .normal d, rfl⟩
  · exact ⟨_, _, exec_setVoltagePersist s d, exec_writeEeprom s .normal d, rfl⟩
  · rw [blockOutputs, hp, hm, hc]
    exact ⟨rfl, rfl, rfl⟩
  · rw [blockOutputs, hp, hm, hw, hc]
    exact ⟨rfl, rfl, rfl, rfl⟩

/-- Settles O39: every row has its equation, and none answers anything but a next state. -/
theorem everyOperationCompletes : Obligations.EveryOperationCompletes := by
  unfold Obligations.EveryOperationCompletes
  exact fun i s => ⟨_, exec_eq_evaluate i s⟩

end Sys2Proof.Machine
end

section
/-! PROOF. The family 42_status_decoder.md: the two views of a reply in the fields of the frames' layouts, so that what each
operation takes, which reply bits it ignores, and which frames read back as reply images follow field by field. -/

namespace Sys2Proof.Machine

/-! ### The two extractions of a code (R51, R52, R83) -/

/-- The register view's code stands where a full-write frame has its code (R46, R51). -/
theorem registerCode_eq_wrCodeField (b1 b2 : Byte) : registerCode b1 b2 = wrCodeField b1 b2 := by
  rw [registerCode, be16_ushiftRight_four, BitVec.setWidth_setWidth_of_le _ (by decide), BitVec.setWidth_eq]

/-- The EEPROM view's code stands where a fast-write frame has its code (R45, R52). -/
theorem eepromCode_eq_fwCodeField (b3 b4 : Byte) : eepromCode b3 b4 = fwCodeField b3 b4 := by
  refine BitVec.eq_of_getLsbD_eq fun i hi => ?_
  rw [eepromCode_getLsbD, fwCodeField_getLsbD]
  split <;> simp [hi]

theorem setWidth_registerCode (b1 b2 : Byte) : (registerCode b1 b2).setWidth 16 = be16 b1 b2 >>> 4 := by
  rw [registerCode_eq_wrCodeField, be16_ushiftRight_four]

theorem setWidth_eepromCode (b3 b4 : Byte) : (eepromCode b3 b4).setWidth 16 = be16 b3 b4 &&& 0x0FFF#16 :=
  (congrArg _ (maskCode_eq_setWidth (be16 b3 b4))).trans (setWidth_setWidth_code (be16 b3 b4))

theorem append_eq_append_iff {m n : Nat} {x x' : BitVec m} {y y' : BitVec n} :
    x ++ y = x' ++ y' ↔ x = x' ∧ y = y' := by
  constructor
  · intro h
    constructor
    · simpa only [BitVec.extractLsb'_append_eq_left] using congrArg (BitVec.extractLsb' n m) h
    · simpa only [BitVec.extractLsb'_append_eq_right] using congrArg (BitVec.extractLsb' 0 n) h
  · rintro ⟨rfl, rfl⟩
    rfl

/-- The shifted code is the pair's first three nibbles (R83). -/
theorem registerCode_eq_nibbles (b b' : Byte) :
    registerCode b b' = (b.extractLsb' 4 4 ++ b.extractLsb' 0 4) ++ b'.extractLsb' 4 4 := by
  have hb : b.extractLsb' 4 4 ++ b.extractLsb' 0 4 = b := BitVec.extractLsb'_append_extractLsb'
  rw [hb, registerCode_eq_wrCodeField]
  rfl

/-- The masked code is the pair's last three nibbles (R83). -/
theorem eepromCode_eq_nibbles (b b' : Byte) :
    eepromCode b b' = (b.extractLsb' 0 4 ++ b'.extractLsb' 4 4) ++ b'.extractLsb' 0 4 := by
  have hb' : b'.extractLsb' 4 4 ++ b'.extractLsb' 0 4 = b' := BitVec.extractLsb'_append_extractLsb'
  rw [BitVec.append_assoc, hb', eepromCode_eq_fwCodeField]
  rfl

/-- The two extractions agree exactly where each nibble of the pair is the next one (R83). -/
theorem registerCode_eq_eepromCode_iff (b b' : Byte) :
    registerCode b b' = eepromCode b b' ↔
      b.extractLsb' 4 4 = b.extractLsb' 0 4 ∧ b.extractLsb' 0 4 = b'.extractLsb' 4 4 ∧
      b'.extractLsb' 4 4 = b'.extractLsb' 0 4 := by
  rw [registerCode_eq_nibbles, eepromCode_eq_nibbles]
  exact append_eq_append_iff.trans ((and_congr_left' append_eq_append_iff).trans and_assoc)

/-! ### The views by their fields -/

/-- R79 field by field. -/
theorem decodeRegister_eq (b0 b1 b2 : Byte) :
    decodeRegister b0 b1 b2 =
      { raw := b0, ready := b0.getLsbD 7, por := b0.getLsbD 6, mode := pdDecode (wrModeField b0),
        code := wrCodeField b1 b2 } := by
  obtain ⟨hready, hpor, -⟩ := decodeRegister_agreesWithRaw b0 b1 b2
  exact (RegisterStatus.mk.injEq ..).mpr ⟨rfl, hready, hpor, rfl, registerCode_eq_wrCodeField b1 b2⟩

/-- R80 field by field. -/
theorem decodeEeprom_eq (b3 b4 : Byte) :
    decodeEeprom b3 b4 = { mode := pdDecode (eepromModeField b3), code := fwCodeField b3 b4 } := by
  rw [decodeEeprom, eepromCode_eq_fwCodeField]

/-- Bytes that hold a mode's code and a code where the register view looks for them decode to these (R86). -/
theorem decodeRegister_of_fields {m : PowerDownMode} {c : Code} {b0 b1 b2 : Byte} (hm : wrModeField b0 = pdEncode m)
    (hc : wrCodeField b1 b2 = c) :
    decodeRegister b0 b1 b2 = { raw := b0, ready := b0.getLsbD 7, por := b0.getLsbD 6, mode := m, code := c } := by
  rw [decodeRegister_eq, hm, hc, pdDecode_pdEncode]

/-- Bytes that hold a mode's code and a code where the EEPROM view looks for them decode to these (R86). -/
theorem decodeEeprom_of_fields {m : PowerDownMode} {c : Code} {b3 b4 : Byte} (hm : eepromModeField b3 = pdEncode m)
    (hc : fwCodeField b3 b4 = c) : decodeEeprom b3 b4 = { mode := m, code := c } := by
  rw [decodeEeprom_eq, hm, hc, pdDecode_pdEncode]

/-! ### What the three operations take -/

/-- Settles O28: REG_STATUS's equation with the view written out; ports 1 and 2 are the pair that is shifted. -/
theorem decodeRegisterResult : Obligations.DecodeRegisterResult := by
  unfold Obligations.DecodeRegisterResult
  intro b0 b1 b2 s view
  have hview : decodeRegister b0 b1 b2 = view := decodeRegister_eq b0 b1 b2
  refine ⟨?_, ?_, rfl⟩
  · rw [exec_regStatus, hview]
    rfl
  · rw [← hview]
    exact setWidth_registerCode b1 b2

/-- Settles O29: EEPROM_STATUS's equation with the view written out; ports 3 and 4 are the pair that is masked. -/
theorem decodeEepromResult : Obligations.DecodeEepromResult := by
  unfold Obligations.DecodeEepromResult
  intro b3 b4 s view
  have hview : decodeEeprom b3 b4 = view := decodeEeprom_eq b3 b4
  refine ⟨?_, ?_, rfl⟩
  · rw [exec_eepromStatus, hview]
    rfl
  · rw [← hview]
    exact setWidth_eepromCode b3 b4

/-- Settles O30: the three rows' equations; the two views drive different ports and are different fields, so either order writes
one state. -/
theorem decodeReplyResult : Obligations.DecodeReplyResult := by
  unfold Obligations.DecodeReplyResult
  intro b0 b1 b2 b3 b4 s t
  exact ⟨exec_readReply s b0 b1 b2 b3 b4, ⟨_, exec_regStatus s b0 b1 b2, exec_eepromStatus _ b3 b4⟩,
    ⟨_, exec_eepromStatus s b3 b4, exec_regStatus _ b0 b1 b2⟩⟩

/-- Settles O31: the two extractions as the first and the last three nibbles of a pair. -/
theorem extractionsStayAsymmetric : Obligations.ExtractionsStayAsymmetric := by
  unfold Obligations.ExtractionsStayAsymmetric
  refine ⟨fun b0 b1 b2 b3 b4 => ?_, by decide, by decide, registerCode_eq_eepromCode_iff⟩
  exact ⟨setWidth_registerCode b1 b2, setWidth_eepromCode b3 b4, rfl, rfl⟩

/-! ### The ignored bits and the raw byte -/

/-- Words that agree under a mask agree in every field the mask covers. -/
theorem extractLsb'_eq_of_and_eq {w : Nat} {x y mask : BitVec w} (h : x &&& mask = y &&& mask) (k n : Nat)
    (hmask : mask.extractLsb' k n = BitVec.allOnes n) : x.extractLsb' k n = y.extractLsb' k n := by
  simpa only [BitVec.extractLsb'_and, hmask, BitVec.and_allOnes] using congrArg (BitVec.extractLsb' k n) h

/-- Words that agree under a mask differ at most outside it. -/
theorem xor_and_eq_zero_of_and_eq {w : Nat} {x y mask : BitVec w} (h : x &&& mask = y &&& mask) :
    (x ^^^ y) &&& mask = 0#w := by
  refine BitVec.eq_of_getLsbD_eq fun i _ => ?_
  have hi := congrArg (·.getLsbD i) h
  simp only [BitVec.getLsbD_and] at hi
  rw [BitVec.getLsbD_and, BitVec.getLsbD_xor, Bool.and_xor_distrib_right, hi, Bool.xor_self, BitVec.getLsbD_zero]

/-- Settles O32: the masks cover every field that the views read. -/
theorem ignoredReplyBits : Obligations.IgnoredReplyBits := by
  unfold Obligations.IgnoredReplyBits
  intro b0 b1 b2 b3 b4 b0' b2' b3' s s' h0 h2 h3
  have hready : readyFlag b0 = readyFlag b0' := extractLsb'_eq_of_and_eq h0 7 1 (by decide)
  have hpor : porFlag b0 = porFlag b0' := extractLsb'_eq_of_and_eq h0 6 1 (by decide)
  have hmode : registerModeField b0 = registerModeField b0' := extractLsb'_eq_of_and_eq h0 1 2 (by decide)
  have hcode : registerCode b1 b2 = registerCode b1 b2' := by
    simp only [registerCode_eq_wrCodeField, wrCodeField, extractLsb'_eq_of_and_eq h2 4 4 (by decide)]
  have hee : decodeEeprom b3' b4 = decodeEeprom b3 b4 := by
    simp only [decodeEeprom_eq, eepromModeField, fwCodeField, extractLsb'_eq_of_and_eq h3 5 2 (by decide),
      extractLsb'_eq_of_and_eq h3 0 4 (by decide)]
  exact ⟨_, _, _, _, _, exec_readReply s b0 b1 b2 b3 b4, exec_readReply s' b0' b1 b2' b3' b4, rfl, rfl, rfl,
    congrArg some hee, congrArg boolOfBit hready, congrArg boolOfBit hpor, congrArg pdDecode hmode, hcode,
    xor_and_eq_zero_of_and_eq h0⟩

/-- Settles O33: both rows take `decodeRegister`, whose flags and mode agree with its raw byte, while the code is in the other two
bytes. -/
theorem rawPassThrough : Obligations.RawPassThrough := by
  unfold Obligations.RawPassThrough
  constructor
  · intro b0 b1 b2 b3 b4 s i hi
    simp only [List.mem_cons, List.not_mem_nil, or_false] at hi
    rcases hi with rfl | rfl
    · exact ⟨_, _, exec_regStatus s b0 b1 b2, rfl, rfl, rfl, decodeRegister_agreesWithRaw b0 b1 b2⟩
    · exact ⟨_, _, exec_readReply s b0 b1 b2 b3 b4, rfl, rfl, rfl, decodeRegister_agreesWithRaw b0 b1 b2⟩
  · intro b0
    have hcode : registerCode 0x00#8 0x00#8 ≠ registerCode 0x01#8 0x00#8 := by decide
    exact ⟨0x00#8, 0x00#8, 0x01#8, 0x00#8, rfl, hcode⟩

/-! ### Images of a mode and a code -/

/-- Settles O34: the code cut in two is put together again, in each layout at its own place. -/
theorem roundTripLaw : Obligations.RoundTripLaw := by
  unfold Obligations.RoundTripLaw
  intro m d s c
  constructor
  · intro b0 b1 b2 hm h1 h2
    have hc : wrCodeField b1 b2 = c := by
      rw [wrCodeField, h1, h2]
      exact BitVec.extractLsb'_append_extractLsb'
    have hview := decodeRegister_of_fields hm hc
    exact ⟨_, _, exec_regStatus s b0 b1 b2, congrArg some hview, rfl, rfl⟩
  · intro b3 b4 hm h3 h4
    have hc : fwCodeField b3 b4 = c := by
      rw [fwCodeField, h3, h4]
      exact BitVec.extractLsb'_append_extractLsb'
    have hview := decodeEeprom_of_fields hm hc
    exact ⟨_, _, exec_eepromStatus s b3 b4, congrArg some hview, rfl, rfl⟩

/-- Either full-write selector reads as a register image's flags: `ready` false and `por` true (R87). -/
theorem wrByte0_flags (persist : Bool) (p : ModeBits) :
    (wrByte0 (wrSelector persist) p).getLsbD 7 = false ∧ (wrByte0 (wrSelector persist) p).getLsbD 6 = true := by
  simp only [wrByte0_getLsbD]
  cases persist <;> exact ⟨rfl, rfl⟩

/-- Settles O35: a full-write frame has its mode and its code where the register view looks for them. -/
theorem fullWriteFrameIsARegisterImage : Obligations.FullWriteFrameIsARegisterImage := by
  unfold Obligations.FullWriteFrameIsARegisterImage
  intro m d persist s
  have hframe := encodeWR_eq (wrSelector persist) (pdEncode m) (d.setWidth 12)
  obtain ⟨-, -, hmode, hcode⟩ := (encodeWR_eq_iff _ _ _ _ _ _).1 hframe
  obtain ⟨hready, hpor⟩ := wrByte0_flags persist (pdEncode m)
  have hview := decodeRegister_of_fields hmode (hcode.trans (setWidth_masked d).symm)
  rw [hready, hpor] at hview
  exact ⟨_, _, _, _, _, exec_fullWrite s m d persist, (bytes_spaceOfBytes _).trans hframe, exec_regStatus _ _ _ _,
    congrArg some hview⟩

/-- The EEPROM view looks for the mode one bit too high in a fast-write frame: at the selector's low bit and the mode's high bit
(R53, R88). -/
theorem eepromModeField_eq_append (b0 : Byte) :
    eepromModeField b0 = (b0.extractLsb' 6 2).extractLsb' 0 1 ++ (fwModeField b0).extractLsb' 1 1 := by
  refine BitVec.eq_of_getLsbD_eq fun i hi => ?_
  refine .trans ?_ (getLsbD_append_at ((b0.extractLsb' 6 2).extractLsb' 0 1) ((fwModeField b0).extractLsb' 1 1) i rfl).symm
  interval_cases i <;> simp [eepromModeField, fwModeField]

/-- The image `[(p << 5) | c[11:8], c[7:0]]` has the mode and the code in the EEPROM view's fields (R88). -/
theorem eepromImage_fields (p : ModeBits) (c : Code) :
    eepromModeField ((p.setWidth 8 <<< 5) ||| (c.extractLsb' 8 4).setWidth 8) = p ∧
    fwCodeField ((p.setWidth 8 <<< 5) ||| (c.extractLsb' 8 4).setWidth 8) (c.extractLsb' 0 8) = c := by
  constructor <;> refine BitVec.eq_of_getLsbD_eq fun i hi => ?_
  · interval_cases i <;> simp [eepromModeField]
  · rw [fwCodeField_getLsbD]
    interval_cases i <;> simp

/-- Settles O36: a fast-write frame has its code where the EEPROM view looks for it but its mode one bit lower; the image has
both in place. -/
theorem fastWriteFrameIsNoEepromImage : Obligations.FastWriteFrameIsNoEepromImage := by
  unfold Obligations.FastWriteFrameIsNoEepromImage
  intro m d s c p
  constructor
  · have hframe := encodeFW_eq p (d.setWidth 12)
    obtain ⟨hsel, hmode, hcode⟩ := (encodeFW_eq_iff _ _ _ _).1 hframe
    have hview := decodeEeprom_eq (0b00#2 ++ p ++ (d.setWidth 12).extractLsb' 8 4) ((d.setWidth 12).extractLsb' 0 8)
    rw [eepromModeField_eq_append, hsel, hmode, hcode.trans (setWidth_masked d).symm] at hview
    refine ⟨_, _, _, _, exec_fastWrite s m d, (bytes_spaceOfBytes _).trans hframe, exec_eepromStatus _ _ _,
      congrArg some hview, ?_⟩
    change pdDecode (0b0#1 ++ (pdEncode m).extractLsb' 1 1) = _
    cases m <;> decide
  · obtain ⟨hmode, hcode⟩ := eepromImage_fields p c
    exact ⟨_, exec_eepromStatus s _ _, congrArg some (decodeEeprom_of_fields hmode hcode)⟩

end Sys2Proof.Machine
end

section
/-! PROOF. The family 43_host_operations.md: a host operation issues its one transport call and suspends, its turn ends it with one
result when the answer is at hand, and the two records of the orchestrator count each other. -/

namespace Sys2Proof.Machine

/-! ### What starting a host operation does -/

/-- The operation of the block that a host write runs before it hands TX over (R93 to R95); `read` and `destroy` run none. -/
def blockInstr? : HostOp → Option Instr
  | .read => none
  | .fastWrite m d => some (.fastWrite m d)
  | .write m d false => some (.writeReg m d)
  | .write m d true => some (.writeEeprom m d)
  | .setVoltage d false => some (.setVoltageFast d)
  | .setVoltage d true => some (.setVoltagePersist d)
  | .destroy => none

theorem blockInstr?_cases (op : HostOp) : op = .read ∨ op = .destroy ∨ ∃ i, blockInstr? op = some i := by
  cases op with
  | read => exact .inl rfl
  | destroy => exact .inr (.inl rfl)
  | fastWrite => exact .inr (.inr ⟨_, rfl⟩)
  | write _ _ persist | setVoltage _ persist => cases persist <;> exact .inr (.inr ⟨_, rfl⟩)

section start
variable {op : HostOp} {i : Instr} (s : State) (d : Driver)

theorem row_of_blockInstr? (h : blockInstr? op = some i) : i.row ∈ emittedRows := by
  cases op with
  | read | destroy => cases h
  | fastWrite => cases h; simp [Instr.row]
  | write _ _ persist | setVoltage _ persist => cases persist <;> cases h <;> simp [Instr.row]

/-- A host write is its block operation, then TX handed over. -/
theorem startHostOp_of_blockInstr? (h : blockInstr? op = some i) :
    startHostOp op d s = (evaluate i s).sendTx d := by
  cases op with
  | read | destroy => cases h
  | fastWrite => cases h; rfl
  | write _ _ persist | setVoltage _ persist => cases persist <;> cases h <;> rfl

/-- Every host operation but `destroy` issues one call: a read for `read`, a write for the others (R92 to R95, R97). -/
theorem startHostOp_issues (hop : op ≠ .destroy) :
    ∃ u c, startHostOp op d s = u.issue c ∧ s.SameHost u ∧
      (op = .read → c = .read d.addr7) ∧ (op ≠ .read → ∃ bytes, c = .write d.addr7 bytes) := by
  obtain rfl | rfl | ⟨i, hi⟩ := blockInstr?_cases op
  · exact ⟨s, _, rfl, s.sameHost_refl, fun _ => rfl, fun h => absurd rfl h⟩
  · exact absurd rfl hop
  · refine ⟨evaluate i s, _, startHostOp_of_blockInstr? s d hi, evaluate_sameHost i s, ?_, fun _ => ⟨_, rfl⟩⟩
    rintro rfl
    cases hi

end start

/-! ### What the turn of a suspended operation does -/

/-- The transport's answer to a call is at hand (R122). -/
def State.Answered (s : State) : BusCall → Prop
  | .write _ _ => s.writeAnswers ≠ []
  | .read _ => s.readAnswers ≠ []

/-- From `s` to `t` a transaction ended with the one result `r`: no call was issued, and the requests and the orchestrator are
as they were (R97). -/
structure State.EndsWith (s : State) (r : HostResult) (t : State) : Prop where
  endsTransaction : r.endsTransaction = true
  inflight : t.inflight = none
  calls : t.calls = s.calls
  results : t.results = s.results ++ [r]
  agenda : t.agenda = s.agenda
  driver : t.driver = s.driver

section turn
variable (s : State)

/-- A resumed operation goes on waiting, or it ends with one result. -/
theorem resume_cases (c : BusCall) :
    (¬ s.Answered c ∧ resume c s = s) ∨ ∃ r, s.EndsWith r (resume c s) := by
  cases c with
  | write a bytes =>
    simp only [resume]
    obtain ⟨hw, hs⟩ | ⟨rest, -, hs⟩ | ⟨e, rest, -, hs⟩ := resumeWrite_cases s <;> rw [hs]
    · exact .inl ⟨not_not_intro hw, rfl⟩
    · exact .inr ⟨.success, rfl, rfl, rfl, rfl, rfl, rfl⟩
    · exact .inr ⟨.err e, rfl, rfl, rfl, rfl, rfl, rfl⟩
  | read a =>
    simp only [resume]
    obtain ⟨hr, hs⟩ | ⟨b0, b1, b2, b3, b4, rest, -, hs⟩ | ⟨e, rest, -, hs⟩ := resumeRead_cases s <;> rw [hs]
    · exact .inl ⟨not_not_intro hr, rfl⟩
    · exact .inr ⟨.status _ _, rfl, rfl, rfl, rfl, rfl, rfl⟩
    · exact .inr ⟨.err e, rfl, rfl, rfl, rfl, rfl, rfl⟩

/-- With the answer at hand the turn ends the operation, on the agenda that the turn leaves. -/
theorem step_endsWith_of_answered {c : BusCall} (hc : s.inflight = some c) (ht : turnAt s.agenda = true)
    (ha : s.Answered c) :
    ∃ t r, step s = .next t ∧ (s.setAgenda (afterTurn s.agenda)).EndsWith r t := by
  obtain ⟨hwait, -⟩ | ⟨r, hr⟩ := resume_cases (s.setAgenda (afterTurn s.agenda)) c
  · exact absurd (by cases c <;> exact ha) hwait
  · exact ⟨_, r, step_of_turnAt hc ht, hr⟩

end turn

/-! ### The two records count each other -/

namespace State.CallsMatchResults
variable {s t : State} (h : s.CallsMatchResults)
include h

theorem of_sameHost (hst : s.SameHost t) : t.CallsMatchResults := by
  obtain ⟨-, hinflight, hcalls, hresults, -⟩ := hst
  rwa [State.CallsMatchResults, hinflight, hcalls, hresults]

/-- Issuing a call with nothing in flight adds one to both sides. -/
theorem issue (hn : s.inflight = none) (c : BusCall) : (s.issue c).CallsMatchResults := by
  have count : s.calls.length = s.results.countP (·.endsTransaction) := by
    simpa [State.CallsMatchResults, hn] using h
  simp [State.CallsMatchResults, State.issue_eq, count]

/-- Ending the transaction in flight makes it a result. -/
theorem endsWith {c : BusCall} {r : HostResult} (hc : s.inflight = some c) (hr : s.EndsWith r t) :
    t.CallsMatchResults := by
  have count : s.calls.length = s.results.countP (·.endsTransaction) + 1 := by
    simpa [State.CallsMatchResults, hc] using h
  simp [State.CallsMatchResults, hr.inflight, hr.calls, hr.results, hr.endsTransaction, count]

/-- The handle that `destroy` returns ends no transaction. -/
theorem runDestroy (d : Driver) : (runDestroy d s).CallsMatchResults := by
  have uncounted :
      (s.results ++ [HostResult.handle d.bus]).countP HostResult.endsTransaction =
        s.results.countP HostResult.endsTransaction := by
    rw [List.countP_append]
    rfl
  exact h.trans (congrArg (· + _) uncounted.symm)

theorem startHostOp (hn : s.inflight = none) (op : HostOp) (d : Driver) :
    (startHostOp op d s).CallsMatchResults := by
  by_cases hop : op = .destroy
  · subst hop
    exact h.runDestroy d
  · obtain ⟨u, c, hu, hsu, -⟩ := startHostOp_issues s d hop
    obtain ⟨-, hinflight, -⟩ := id hsu
    rw [hu]
    exact (h.of_sameHost hsu).issue (hinflight.trans hn) c

theorem takeTurn : s.takeTurn.CallsMatchResults := by
  obtain ⟨-, hs⟩ | ⟨c, hc, hs⟩ := s.takeTurn_cases <;> rw [hs]
  · exact h
  · obtain ⟨-, hwait⟩ | ⟨r, hr⟩ := resume_cases s c
    · rwa [hwait]
    · exact h.endsWith hc hr

end State.CallsMatchResults

/-- Settles O52: a step gives a turn or serves one request; a call is issued only with nothing in flight, and only the end of a
transaction adds a result that counts. -/
theorem callsMatchResultsKept : Obligations.CallsMatchResultsKept := by
  unfold Obligations.CallsMatchResultsKept
  refine ⟨rfl, fun s t h hstep => ?_⟩
  obtain rfl | ⟨r, rest, -, hidle, hserve⟩ := advance_next_cases hstep
  · exact h.takeTurn
  have h' : (s.setAgenda rest).CallsMatchResults := h
  obtain ⟨i, he⟩ | ⟨bus, addr7, -, -, rfl⟩ | ⟨op, d, rfl, -, rfl⟩ | ⟨-, rfl⟩ := serve_next_cases hserve
  · cases he.symm.trans (exec_eq_evaluate i _)
    exact h'.of_sameHost (evaluate_sameHost i _)
  · exact h'
  · exact h'.startHostOp (hidle rfl) op d
  · exact h'.takeTurn

/-! ### The operations of the orchestrator -/

/-- Settles O51: the operation starts with one call, and its turn ends it. -/
theorem hostOperationTakesOneTransaction : Obligations.HostOperationTakesOneTransaction := by
  unfold Obligations.HostOperationTakesOneTransaction
  intro s d op rest hn hd ha hop hturn hread hwrite
  obtain ⟨u, c, hu, ⟨hdriver, -, hcalls, hresults, hagenda, hwa, hra⟩, hcr, hcw⟩ :=
    startHostOp_issues (s.setAgenda rest) d hop
  have answered : (u.issue c).Answered c := by
    by_cases hr : op = .read
    · obtain rfl := hcr hr
      exact fun h => hread hr (hra.symm.trans h)
    · obtain ⟨bytes, rfl⟩ := hcw hr
      exact fun h => hwrite hr (hwa.symm.trans h)
  have turn : turnAt (u.issue c).agenda = true := (congrArg turnAt hagenda).trans hturn
  obtain ⟨t, r, hstep, ends⟩ := step_endsWith_of_answered (u.issue c) rfl turn answered
  exact ⟨u.issue c, c, t, r, (step_of_host hn hd ha).trans (congrArg _ hu), hagenda, rfl,
    congrArg (· ++ [c]) hcalls, hresults, hcr, hcw, hstep, ends.inflight, ends.calls,
    ends.results.trans (congrArg (· ++ [r]) hresults), ends.endsTransaction,
    ends.agenda.trans (congrArg afterTurn hagenda), ends.driver.trans (hdriver.trans hd)⟩

/-- Settles O45: the operation's TX is its encoding, and the call sends TX. -/
theorem hostWritesHandTheFrameOver : Obligations.HostWritesHandTheFrameOver := by
  unfold Obligations.HostWritesHandTheFrameOver
  intro s dr rest m d op i hop hn hd ha
  have hi : blockInstr? op = some i := by
    simp only [List.mem_cons, Prod.mk.injEq, List.not_mem_nil, or_false] at hop
    rcases hop with ⟨rfl, rfl⟩ | ⟨rfl, rfl⟩ | ⟨rfl, rfl⟩ | ⟨rfl, rfl⟩ | ⟨rfl, rfl⟩ <;> rfl
  obtain ⟨t, ht, hbytes⟩ := emittedFrameIsTheEncoding i (s.setAgenda rest) (row_of_blockInstr? hi)
  cases ht.symm.trans (exec_eq_evaluate i _)
  obtain ⟨-, -, hcalls, -⟩ := evaluate_sameHost i (s.setAgenda rest)
  refine ⟨_, ht, hbytes, (step_of_host hn hd ha).trans ?_⟩
  rw [startHostOp_of_blockInstr? _ dr hi, State.sendTx, hbytes, State.issue_eq, hcalls]
  rfl

/-- Settles O44: a filled read at its turn decodes its five bytes. -/
theorem hostReadReturnsTheDecodedPair : Obligations.HostReadReturnsTheDecodedPair := by
  unfold Obligations.HostReadReturnsTheDecodedPair
  intro s a b0 b1 b2 b3 b4 rest hc ht hr
  have filled := resumeRead_of_filled (s := s.setAgenda (afterTurn s.agenda)) hr
  rw [State.runReply_eq] at filled
  exact (step_of_turnAt hc ht).trans (congrArg _ filled)

/-- Settles O47: an accepted write at its turn only ends. -/
theorem hostWriteReturnsSuccess : Obligations.HostWriteReturnsSuccess := by
  unfold Obligations.HostWriteReturnsSuccess
  intro s a bytes rest hc ht hw
  have accepted : resumeWrite (s.setAgenda (afterTurn s.agenda)) =
      ((s.setAgenda (afterTurn s.agenda)).setWriteAnswers rest).finish .success := by
    simpa [hw] using resumeWrite_cases (s.setAgenda (afterTurn s.agenda))
  exact (step_of_turnAt hc ht).trans (congrArg _ accepted)

/-- Settles O43: starting `read` is issuing its call. -/
theorem hostReadIssuesOneRead : Obligations.HostReadIssuesOneRead := by
  unfold Obligations.HostReadIssuesOneRead
  intro s d rest hn hd ha
  exact step_of_host hn hd ha

/-- Settles O42: a construction is served with nothing in flight, and looks only at whether an orchestrator is alive. -/
theorem constructionTakesHandleAndAddress : Obligations.ConstructionTakesHandleAndAddress := by
  unfold Obligations.ConstructionTakesHandleAndAddress
  intro s bus addr7 rest hn ha
  have served : step s = runConstruct bus addr7 (s.setAgenda rest) := step_of_idle hn ha
  refine ⟨fun hd => ?_, fun hd => ?_⟩
  · rw [served, runConstruct, State.setAgenda_driver, hd]
    rfl
  · obtain ⟨d, hd⟩ := Option.ne_none_iff_exists'.1 hd
    rw [served, runConstruct, State.setAgenda_driver, hd]

/-- Settles O48: `destroy` starts like every host operation, and none starts without an orchestrator. -/
theorem destroyEndsTheOrchestrator : Obligations.DestroyEndsTheOrchestrator := by
  unfold Obligations.DestroyEndsTheOrchestrator
  refine ⟨fun s d rest hn hd ha => step_of_host hn hd ha, fun s op rest hn hd ha => ?_⟩
  rw [step_of_idle hn ha, serve, runHostOp, State.setAgenda_driver, hd]

end Sys2Proof.Machine
end

section
/-! PROOF. The family 60_exceptions.md: a transport failure ends its operation and reaches nothing of the block, error values are
renamed through every step, and a state whose requests can be served in their turn steps to such a state. -/

namespace Sys2Proof.Machine

open Config (TransportError BusHandle)

/-! ### The turn of an operation, by the transport's answer -/

section answers
variable {s : State} {e : TransportError}

theorem resumeWrite_of_unanswered (h : s.writeAnswers = []) : resumeWrite s = s := by
  simpa [h] using resumeWrite_cases s

theorem resumeWrite_of_success {rest : List WriteAnswer} (h : s.writeAnswers = .success :: rest) :
    resumeWrite s = (s.setWriteAnswers rest).finish .success := by
  simpa [h] using resumeWrite_cases s

theorem resumeWrite_of_failure {rest : List WriteAnswer} (h : s.writeAnswers = .failure e :: rest) :
    resumeWrite s = (s.setWriteAnswers rest).finish (.err e) := by
  simpa [h] using resumeWrite_cases s

theorem resumeRead_of_unanswered (h : s.readAnswers = []) : resumeRead s = s := by
  simpa [h] using resumeRead_cases s

theorem resumeRead_of_failure {rest : List ReadAnswer} (h : s.readAnswers = .failure e :: rest) :
    resumeRead s = (s.setReadAnswers rest).finish (.err e) := by
  simpa [h] using resumeRead_cases s

end answers

/-! ### A request that waits, and one that is served -/

section turnOrServe
variable {s : State} {r : Request} {rest : List Request}

theorem step_of_nothing_asked (ha : s.agenda = []) : step s = .next s.takeTurn := by
  simp [step, advance, ha]

/-- A request that needs the orchestrator waits while an operation is suspended, and that operation has its turn (R40, R119). -/
theorem step_of_waiting (ha : s.agenda = r :: rest) (hw : (r.needsOrchestrator && s.inflight.isSome) = true) :
    step s = .next s.takeTurn := by
  simp only [step, advance, ha, hw, if_true]

theorem step_of_not_waiting (ha : s.agenda = r :: rest) (hw : ¬ (r.needsOrchestrator && s.inflight.isSome) = true) :
    step s = serve r (s.setAgenda rest) := by
  simp only [step, advance, ha, hw, if_false, Bool.false_eq_true]

end turnOrServe

/-! ### Requests that can be served -/

/-- A turn ends an operation or leaves it waiting; it changes neither the orchestrator nor the requests (R97). -/
theorem State.takeTurn_keeps_driver_agenda (s : State) :
    s.takeTurn.driver = s.driver ∧ s.takeTurn.agenda = s.agenda := by
  obtain ⟨-, hs⟩ | ⟨c, -, hs⟩ := s.takeTurn_cases <;> rw [hs]
  · exact ⟨rfl, rfl⟩
  obtain ⟨-, hwait⟩ | ⟨r, hr⟩ := resume_cases s c
  · rw [hwait]
    exact ⟨rfl, rfl⟩
  · exact ⟨hr.driver, hr.agenda⟩

theorem aliveAfter_host {op : HostOp} (hop : op ≠ .destroy) (alive : Bool) :
    (Request.host op).aliveAfter alive = alive := by
  cases op with
  | destroy => exact absurd rfl hop
  | read | fastWrite | write | setVoltage => rfl

/-- From `s`, `x` is an outcome that goes on, with the orchestrator alive as `r` leaves it and the requests as they were. -/
def State.GoesOnAfter (s : State) (r : Request) (x : Host.Outcome State Fault Refusal) : Prop :=
  ∃ t, x = .next t ∧ t.driver.isSome = r.aliveAfter s.driver.isSome ∧ t.agenda = s.agenda

section servable
variable {s : State} {r : Request}

/-- An evaluation of the block goes on and leaves the orchestrator and the requests alone (R72, R82, R100). -/
theorem exec_goesOnAfter (i : Instr) (hr : r.aliveAfter s.driver.isSome = s.driver.isSome) :
    s.GoesOnAfter r (exec i s) := by
  obtain ⟨hdriver, -, -, -, hagenda, -⟩ := evaluate_sameHost i s
  exact ⟨_, exec_eq_evaluate i s, (congrArg Option.isSome hdriver).trans hr.symm, hagenda⟩

/-- Bytes that are a word of a row run as its instruction. -/
theorem runDecoded_goesOnAfter {x : Decoded} (hx : x.instr?.isSome = true)
    (hr : r.aliveAfter s.driver.isSome = s.driver.isSome) : s.GoesOnAfter r (runDecoded x s) := by
  obtain ⟨i, hi⟩ := Option.isSome_iff_exists.1 hx
  rw [instr?_eq_some_iff.1 hi]
  exact exec_goesOnAfter i hr

/-- With no orchestrator alive, a construction makes one (R91, R116). -/
theorem runConstruct_goesOnAfter (bus : BusHandle) (addr7 : Addr7) (hd : s.driver = none) :
    s.GoesOnAfter (.construct bus addr7) (runConstruct bus addr7 s) := by
  rw [runConstruct, hd]
  exact ⟨_, rfl, rfl, rfl⟩

/-- On a live orchestrator a host operation starts, and only `destroy` ends the orchestrator (R92 to R96). -/
theorem runHostOp_goesOnAfter {d : Driver} (op : HostOp) (hd : s.driver = some d) :
    s.GoesOnAfter (.host op) (runHostOp op s) := by
  rw [runHostOp, hd]
  by_cases hop : op = .destroy
  · subst hop
    exact ⟨_, rfl, rfl, rfl⟩
  · obtain ⟨u, c, hu, ⟨hdriver, -, -, -, hagenda, -⟩, -⟩ := startHostOp_issues s d hop
    exact ⟨u.issue c, congrArg _ hu, (congrArg Option.isSome hdriver).trans (aliveAfter_host hop _).symm, hagenda⟩

/-- A request that can be served is served: each refusal of `serve` is what `servable` excludes. -/
theorem serve_goesOnAfter (h : r.servable s.driver.isSome = true) : s.GoesOnAfter r (serve r s) := by
  cases r with
  | invoke i => exact exec_goesOnAfter i rfl
  | rowImage row bytes => exact runDecoded_goesOnAfter h rfl
  | image bytes => exact runDecoded_goesOnAfter h rfl
  | construct bus addr7 =>
    exact runConstruct_goesOnAfter bus addr7 (by simpa [Request.servable] using h)
  | host op =>
    obtain ⟨d, hd⟩ := Option.isSome_iff_exists.1 h
    exact runHostOp_goesOnAfter op hd
  | yield =>
    obtain ⟨hdriver, hagenda⟩ := s.takeTurn_keeps_driver_agenda
    exact ⟨_, rfl, congrArg Option.isSome hdriver, hagenda⟩

end servable

theorem servableAll_cons_iff {alive : Bool} {r : Request} {rest : List Request} :
    servableAll alive (r :: rest) = true ↔
      r.servable alive = true ∧ servableAll (r.aliveAfter alive) rest = true := by
  rw [servableAll, Bool.and_eq_true]

/-- Settles O57: a turn changes neither the orchestrator nor the requests, and a served request leaves the orchestrator as the
rest of the agenda expects it. -/
theorem servableStatesStepOn : Obligations.ServableStatesStepOn := by
  unfold Obligations.ServableStatesStepOn
  intro s h
  have turn : servableAll s.takeTurn.driver.isSome s.takeTurn.agenda = true := by
    obtain ⟨hdriver, hagenda⟩ := s.takeTurn_keeps_driver_agenda
    rwa [hdriver, hagenda]
  rcases ha : s.agenda with _ | ⟨r, rest⟩
  · exact ⟨_, step_of_nothing_asked ha, turn⟩
  by_cases hw : (r.needsOrchestrator && s.inflight.isSome) = true
  · exact ⟨_, step_of_waiting ha hw, turn⟩
  · rw [ha] at h
    obtain ⟨hr, hrest⟩ := servableAll_cons_iff.1 h
    obtain ⟨t, ht, halive, hagenda⟩ := serve_goesOnAfter (s := s.setAgenda rest) hr
    refine ⟨t, (step_of_not_waiting ha hw).trans ht, ?_⟩
    rw [halive, hagenda]
    exact hrest

/-! ### Renaming error values -/

section mapErr
variable (f : TransportError → TransportError) (s : State)

@[simp] theorem State.mapErr_driver : (s.mapErr f).driver = s.driver := rfl
@[simp] theorem State.mapErr_inflight : (s.mapErr f).inflight = s.inflight := rfl

/-- Rename the errors in the state an outcome goes on to; a fault and a refusal hold none. -/
def mapErrOutcome : Host.Outcome State Fault Refusal → Host.Outcome State Fault Refusal
  | .next t => .next (t.mapErr f)
  | .fault x => .fault x
  | .refused x => .refused x

/-- An operation of the block reads and writes no error value. -/
theorem evaluate_mapErr (i : Instr) : evaluate i (s.mapErr f) = (evaluate i s).mapErr f := by
  cases i <;> rfl

theorem exec_mapErr (i : Instr) : exec i (s.mapErr f) = mapErrOutcome f (exec i s) := by
  rw [exec_eq_evaluate, exec_eq_evaluate, evaluate_mapErr]
  rfl

theorem runDecoded_mapErr (x : Decoded) : runDecoded x (s.mapErr f) = mapErrOutcome f (runDecoded x s) := by
  cases x with
  | ok i => exact exec_mapErr f s i
  | reject e => rfl

/-- The result that ends an operation is renamed with the earlier ones. -/
theorem State.mapErr_finish (r : HostResult) : (s.finish r).mapErr f = (s.mapErr f).finish (r.mapErr f) := by
  simp [State.finish_eq, State.mapErr, State.setResults, State.setInflight]

/-- A host operation starts without looking at an error; the handle that `destroy` returns is none. -/
theorem startHostOp_mapErr (op : HostOp) (d : Driver) :
    startHostOp op d (s.mapErr f) = (startHostOp op d s).mapErr f := by
  cases op with
  | destroy => simp [startHostOp, runDestroy, State.mapErr, State.setResults, State.setDriver, HostResult.mapErr]
  | read | fastWrite | write | setVoltage => rfl

/-- A suspended write passes its error on unchanged, so it may be renamed before the turn or after it (R105). -/
theorem resumeWrite_mapErr : resumeWrite (s.mapErr f) = (resumeWrite s).mapErr f := by
  obtain ⟨h, hs⟩ | ⟨rest, h, hs⟩ | ⟨e, rest, h, hs⟩ := resumeWrite_cases s <;>
    have answers := congrArg (List.map (WriteAnswer.mapErr f)) h
  · rw [hs]
    exact resumeWrite_of_unanswered answers
  · rw [hs, State.mapErr_finish]
    exact resumeWrite_of_success answers
  · rw [hs, State.mapErr_finish]
    exact resumeWrite_of_failure answers

/-- A suspended read passes its error on unchanged; a reply holds none, and the decoder looks at none (R92, R105). -/
theorem resumeRead_mapErr : resumeRead (s.mapErr f) = (resumeRead s).mapErr f := by
  obtain ⟨h, hs⟩ | ⟨b0, b1, b2, b3, b4, rest, h, hs⟩ | ⟨e, rest, h, hs⟩ := resumeRead_cases s <;>
    have answers := congrArg (List.map (ReadAnswer.mapErr f)) h
  · rw [hs]
    exact resumeRead_of_unanswered answers
  · rw [hs, State.mapErr_finish]
    exact resumeRead_of_filled answers
  · rw [hs, State.mapErr_finish]
    exact resumeRead_of_failure answers

theorem takeTurn_mapErr : (s.mapErr f).takeTurn = s.takeTurn.mapErr f := by
  obtain ⟨hn, hs⟩ | ⟨c, hc, hs⟩ := s.takeTurn_cases <;> rw [hs, State.takeTurn, State.mapErr_inflight]
  · rw [hn]
  · rw [hc]
    cases c with
    | write a bytes => exact resumeWrite_mapErr f s
    | read a => exact resumeRead_mapErr f s

/-- Whether a request is refused, and why, does not depend on an error value. -/
theorem serve_mapErr (r : Request) : serve r (s.mapErr f) = mapErrOutcome f (serve r s) := by
  cases r with
  | invoke i => exact exec_mapErr f s i
  | rowImage row bytes => exact runDecoded_mapErr f s _
  | image bytes => exact runDecoded_mapErr f s _
  | construct bus addr7 =>
    rw [serve, serve, runConstruct, runConstruct, State.mapErr_driver]
    cases s.driver <;> rfl
  | host op =>
    rw [serve, serve, runHostOp, runHostOp, State.mapErr_driver]
    cases s.driver with
    | none => rfl
    | some d => exact congrArg _ (startHostOp_mapErr f s op d)
  | yield => exact congrArg _ (takeTurn_mapErr f s)

/-- What a step does is chosen by the requests and by what is in flight, and either choice commutes with the renaming. -/
theorem step_mapErr : step (s.mapErr f) = mapErrOutcome f (step s) := by
  have turn : Host.Outcome.next (s.mapErr f).takeTurn = mapErrOutcome f (.next s.takeTurn) :=
    congrArg _ (takeTurn_mapErr f s)
  rcases ha : s.agenda with _ | ⟨r, rest⟩
  · rw [step_of_nothing_asked ha, step_of_nothing_asked (s := s.mapErr f) ha, turn]
  by_cases hw : (r.needsOrchestrator && s.inflight.isSome) = true
  · rw [step_of_waiting ha hw, step_of_waiting (s := s.mapErr f) ha hw, turn]
  · rw [step_of_not_waiting ha hw, step_of_not_waiting (s := s.mapErr f) ha hw]
    exact serve_mapErr f (s.setAgenda rest) r

end mapErr

/-- Settles O55: the step's outcome from the renamed state is the renamed outcome. -/
theorem errorValuesAreOpaque : Obligations.ErrorValuesAreOpaque := by
  unfold Obligations.ErrorValuesAreOpaque
  intro f s
  refine ⟨fun t h => ?_, fun r h => ?_⟩ <;> rw [step_mapErr, h, mapErrOutcome]

/-- Settles O46: at its turn a failed read, or a failed write, only takes the answer and ends with its error. -/
theorem transportFailureIsPassedThrough : Obligations.TransportFailureIsPassedThrough := by
  unfold Obligations.TransportFailureIsPassedThrough
  refine ⟨fun s a e rest hc ht hr => ?_, fun s a bytes e rest hc ht hw => ?_⟩
  · exact (step_of_turnAt hc ht).trans
      (congrArg _ (resumeRead_of_failure (s := s.setAgenda (afterTurn s.agenda)) hr))
  · exact (step_of_turnAt hc ht).trans
      (congrArg _ (resumeWrite_of_failure (s := s.setAgenda (afterTurn s.agenda)) hw))

end Sys2Proof.Machine
end

section
/-! PROOF. The family 70_reset_and_hazards.md: an operation in flight that the transport has not answered stays suspended at its
turn. -/

namespace Sys2Proof.Machine

/-- Settles O49: the turn resumes the operation in flight, and resuming it unanswered changes nothing. -/
theorem suspendedUntilTheTransportAnswers : Obligations.SuspendedUntilTheTransportAnswers := by
  unfold Obligations.SuspendedUntilTheTransportAnswers
  refine ⟨fun s a hc ht hr => ?_, fun s a bytes hc ht hw => ?_⟩
  · exact (step_of_turnAt hc ht).trans
      (congrArg _ (resumeRead_of_unanswered (s := s.setAgenda (afterTurn s.agenda)) hr))
  · exact (step_of_turnAt hc ht).trans
      (congrArg _ (resumeWrite_of_unanswered (s := s.setAgenda (afterTurn s.agenda)) hw))

end Sys2Proof.Machine
end
